-- ==== Sys2Proof/Word.lean ====
section
/-! DEFINITION. The widths of the machine: a byte on the data bus (R60) and a 16-bit address or
register pair (R6 `XLEN_ADDR`, R26). -/

namespace Sys2Proof

/-- One byte: a register, a memory byte, an immediate `d8`, a port number `p8` (R6 `XLEN_DATA`). -/
abbrev Byte := BitVec 8

/-- Sixteen bits: an address, SP, PC, a register pair, an immediate `d16` or `a16` (R6, R23, R26). -/
abbrev Word := BitVec 16

end Sys2Proof
end

