-- ==== Sys2Proof/Config.lean ====
section
/-! DEFINITION. What the spec leaves open: the free values (`draw`), and the parameters that
92_eei_decisions.md section 5 marks OPEN, as plain data (entries 1 to 8, 11 and 16 of the assumption log). -/

namespace Sys2Proof

/-- The n-th free bit: a value no rule fixes (`draw`, 00_scope.md section 6; entry 11). -/
opaque Config.freeBit (n : Nat) : Bool

/-- The n-th free byte (`draw`; entry 11). -/
opaque Config.freeByte (n : Nat) : Byte

/-- The n-th free 16-bit value (`draw`; entry 11). -/
opaque Config.freeWord (n : Nat) : Word

/-- A parameter that fixes one bit or leaves it a `draw` (FLAG_BIT3, ANA_AC). -/
inductive OpenBit
  | zero | one | draw
deriving DecidableEq, Repr

/-- The parameter TRAP_RIM_QUIRK (R331): what bit 3 of the first RIM after a TRAP entry shows. -/
inductive TrapRim
  /-- the IE before the TRAP (`TRAP_RIM_QUIRK = true`) -/
  | savedIE
  /-- the current IE, as in every other RIM (`TRAP_RIM_QUIRK = false`) -/
  | currentIE
  /-- a `draw` (U12) -/
  | draw
deriving DecidableEq, Repr

/-- What the platform places at an address (R73). -/
inductive MemKind
  /-- reads return the last value written -/
  | ram
  /-- reads return a fixed byte, a write changes nothing -/
  | rom
  /-- a read returns a `draw`, a write changes nothing -/
  | absent
  /-- reads and writes go to the environment, like an I/O port's -/
  | device
deriving DecidableEq, Repr

/-- A stretch of the address map: `size` addresses from `base`, of one kind (R73). -/
structure Region where
  base : Nat
  size : Nat
  kind : MemKind
deriving DecidableEq, Repr

/-- The OPEN parameters of 92_eei_decisions.md section 5. -/
structure Params where
  /-- EXT10 is `admitted`: the ten unnamed instructions run (R101) -/
  ext10 : Bool
  /-- VK_EXACT: V and K as R37 says, or `draw` (R39) -/
  vkExact : Bool
  /-- FLAG_BIT3: bit 3 of the byte PUSH PSW writes (R31) -/
  flagBit3 : OpenBit
  /-- ANA_AC: AC after ANA and ANI (R212) -/
  anaAc : OpenBit
  /-- TRAP_RIM_QUIRK (R331) -/
  trapRim : TrapRim
  /-- INTA_FORMS holds RST n (R325) -/
  intaRst : Bool
  /-- INTA_FORMS holds CALL a16 (R325) -/
  intaCall : Bool
  /-- DMA_PRESENT: another master may write ram while it has the bus (R340) -/
  dmaPresent : Bool
  /-- MemMap: the regions of the address map, the first that holds an address deciding; an address in
  none is ram (R73) -/
  memMap : List Region
deriving DecidableEq, Repr

/-- The defaults of 92_eei_decisions.md section 5, but for EXT10, which is `admitted` here (entry 1). -/
def Params.default : Params where
  ext10 := true
  vkExact := false
  flagBit3 := .zero
  anaAc := .one
  trapRim := .savedIE
  intaRst := true
  intaCall := true
  dmaPresent := false
  memMap := []

end Sys2Proof
end

