-- ==== Sys2Proof/Machine/State.lean ====
section
/-! DEFINITION. The state of the machine as plain data: what 10_state.md gives the processor, its memory,
and the model's own fields for the environment's inputs, the event trace and the free values (R8). -/

namespace Sys2Proof.Machine

/-- The seven 8-bit registers (R21, R22). -/
structure Regs where
  a : Byte
  b : Byte
  c : Byte
  d : Byte
  e : Byte
  h : Byte
  l : Byte
deriving DecidableEq, Repr

/-- The seven flag flip-flops (R30). The flag byte is a view of them (R31). -/
structure Flags where
  /-- sign -/
  s : Bool
  /-- zero -/
  z : Bool
  /-- auxiliary sign -/
  k : Bool
  /-- auxiliary carry -/
  ac : Bool
  /-- parity -/
  p : Bool
  /-- overflow -/
  v : Bool
  /-- carry -/
  cy : Bool
deriving DecidableEq, Repr

/-- The interrupt control block (R40 to R44, R330, R331). -/
structure IntCtl where
  /-- IE (R40) -/
  ie : Bool
  /-- M5.5 (R41) -/
  m55 : Bool
  /-- M6.5 (R41) -/
  m65 : Bool
  /-- M7.5 (R41) -/
  m75 : Bool
  /-- R7.5, the latched request of interrupt 4 (R42) -/
  r75 : Bool
  /-- TRAPFF, the latched request of interrupt 5 (R43) -/
  trapFF : Bool
  /-- EI_DELAY (R44) -/
  eiDelay : Bool
  /-- IE_BEFORE_TRAP (R330) -/
  ieBeforeTrap : Bool
  /-- TRAP_RIM_PENDING (R330) -/
  trapRimPending : Bool
deriving DecidableEq, Repr

/-- The levels of the input pins at the present sampling point (R49, R304). -/
structure Pins where
  /-- pin 5, RCD, the serial input -/
  rcd : Bool
  /-- pin 6, interrupt 5, TRAP -/
  pin6 : Bool
  /-- pin 7, interrupt 4, RST 7.5 -/
  pin7 : Bool
  /-- pin 8, interrupt 3, RST 6.5 -/
  pin8 : Bool
  /-- pin 9, interrupt 2, RST 5.5 -/
  pin9 : Bool
  /-- pin 10, interrupt 1, INTR -/
  pin10 : Bool
deriving DecidableEq, Repr

/-- One byte the other master writes: its address and its value (R340). -/
abbrev DmaWrite := Word × Byte

/-- What the environment does at one sampling point and in the slot that follows it (R304, R311, R340,
R351). -/
structure Sample where
  pins : Pins
  /-- a rising edge on pin 6 since the previous sampling point -/
  edge6 : Bool
  /-- a rising edge on pin 7 since the previous sampling point -/
  edge7 : Bool
  /-- SR, pin 36: the reset input is asserted -/
  sr : Bool
  /-- RQM, pin 39: the direct-memory-access request is high -/
  rqm : Bool
  /-- the bytes the other master writes during the hold, in order -/
  dmaWrites : List DmaWrite
  /-- SR is asserted inside the slot, after so many of its bus events (R351) -/
  cut : Option Nat
deriving DecidableEq, Repr

/-- What a claim can speak of besides the state: the bus events of R63, R73, R325, and the two
acknowledging outputs of R340 and R350. -/
inductive Event
  /-- IN read this byte from this port -/
  | ioRead (port v : Byte)
  /-- OUT handed this byte to this port -/
  | ioWrite (port v : Byte)
  /-- the acknowledge of interrupt 1 (pin 11) read this byte -/
  | intaRead (v : Byte)
  /-- a read of a device address answered this byte -/
  | devRead (addr : Word) (v : Byte)
  /-- a write of this byte to a device address -/
  | devWrite (addr : Word) (v : Byte)
  /-- the direct-memory-access request was acknowledged (pin 38) -/
  | holdAck
  /-- the reset output was active (pin 3) -/
  | resetOut
deriving DecidableEq, Repr

/-- The model's own fields (entries 11 to 14 and 16 of the assumption log): the environment's scripts, the
trace and the counter of free values. -/
structure Env where
  /-- the levels at the present sampling point -/
  pins : Pins
  /-- the samples of the coming sampling points -/
  samples : List Sample
  /-- the bytes the environment will put on the bus for port, device and acknowledge reads -/
  busIn : List Byte
  /-- the events so far, newest first -/
  trace : List Event
  /-- what the other master does at the coming machine-cycle boundaries inside a slot, one entry for each bus
  transfer, before it: nothing, or a hold in which it writes these bytes (R340, D18) -/
  holds : List (Option (List DmaWrite))
  /-- how many free values have been drawn -/
  fresh : Nat
deriving DecidableEq, Repr

/-- Memory: pairs of an address below 65,536 and the byte there; an address that is not listed reads as
`Memory.unlisted` (R60, R64; entry 10). -/
abbrev Memory := List Host.Cell

/-- The machine's state (R8). -/
structure State where
  regs : Regs
  flags : Flags
  /-- the stack pointer (R24) -/
  sp : Word
  /-- the program counter (R26) -/
  pc : Word
  /-- the interrupt control block -/
  intr : IntCtl
  /-- HALTED (R47) -/
  halted : Bool
  /-- TFD, the serial output latch (R48) -/
  tfd : Bool
  mem : Memory
  env : Env
  /-- the OPEN parameters; no step changes them -/
  params : Params
deriving DecidableEq, Repr

/-- The hardware has no fault: no instruction, operand, address or flag state traps (R9, R302). No
constructor, so no step can end in one. -/
inductive Fault
deriving DecidableEq, Repr

/-- Why the model gives a step no next state. -/
inductive Refusal
  /-- raised by an arm of exec whose instruction has no meaning yet; safe: nothing is proved of it -/
  | notModelled (mnemonic : String)
  /-- raised by the acknowledge of interrupt 1 when the device supplies a first byte that INTA_FORMS does
  not admit (R325, U8); safe: the model stops where the hardware goes on -/
  | intaByte (b1 : Byte)
  /-- raised by one of the ten instructions the source does not name when EXT10 is `refused` (R101, U7);
  safe: the model stops where the hardware goes on -/
  | ext10 (mnemonic : String)
deriving DecidableEq, Repr

/-- What a meaning answers. -/
abbrev Result := Host.Outcome State Fault Refusal

/-- All pins low. -/
def Pins.low : Pins := ⟨false, false, false, false, false, false⟩

/-- A sampling point at which the environment holds the levels given and does nothing. -/
def Sample.quiet (p : Pins) : Sample := ⟨p, false, false, false, false, [], none⟩

/-- The state right after reset (R53, R350): the values the spec gives, and the values entries 9 to 14 name
for what it leaves unspecified. -/
def State.reset : State where
  regs := ⟨0, 0, 0, 0, 0, 0, 0⟩
  flags := ⟨false, false, false, false, false, false, false⟩
  sp := 0
  pc := 0
  intr :=
    { ie := false, m55 := true, m65 := true, m75 := true, r75 := false, trapFF := false,
      eiDelay := false, ieBeforeTrap := false, trapRimPending := false }
  halted := false
  tfd := false
  mem := []
  env := { pins := Pins.low, samples := [], busIn := [], trace := [], holds := [], fresh := 0 }
  params := Params.default

end Sys2Proof.Machine
end

