-- ==== Sys2Proof/Machine/Bits.lean ====
section
/-! DEFINITION. Byte order and bit fields: the one place where a 16-bit value meets its two bytes (R66,
R96), and where single bits make a byte. -/

namespace Sys2Proof.Machine

/-- `hi : lo`, the 16-bit value of two bytes (00_scope.md section 6, R96 (c)). -/
def mkWord (hi lo : Byte) : Word := hi ++ lo

/-- `v[15:8]`. -/
def hiByte (v : Word) : Byte := v.extractLsb' 8 8

/-- `v[7:0]`. -/
def loByte (v : Word) : Byte := v.extractLsb' 0 8

/-- `zext_16(v)` (R96, R133). -/
def zext16 (v : Byte) : Word := v.setWidth 16

/-- The byte whose bits 7 down to 0 are the arguments. -/
def ofBits (b7 b6 b5 b4 b3 b2 b1 b0 : Bool) : Byte :=
  BitVec.ofBool b7 ++ BitVec.ofBool b6 ++ BitVec.ofBool b5 ++ BitVec.ofBool b4 ++
    BitVec.ofBool b3 ++ BitVec.ofBool b2 ++ BitVec.ofBool b1 ++ BitVec.ofBool b0

/-- Bits 5:3 of a first byte: the fields `ddd`, `ccc`, `nnn`, `ooo` (R91). -/
def field53 (b : Byte) : BitVec 3 := b.extractLsb' 3 3

/-- Bits 2:0 of a first byte: the field `sss` (R91). -/
def field20 (b : Byte) : BitVec 3 := b.extractLsb' 0 3

/-- Bits 5:4 of a first byte: the field `pp` (R94). -/
def field54 (b : Byte) : BitVec 2 := b.extractLsb' 4 2

end Sys2Proof.Machine
end

