-- ==== Sys2Proof/Syntax.lean ====
section
/-! DEFINITION. The instructions: one constructor per row of spec/opcode_table.json, in the table's
order (105 rows, R107). A constructor's docstring names its row's rule. -/

namespace Sys2Proof

/-- The seven 8-bit registers a 3-bit register code can name; code 110 is no register but the memory
byte at HL, and has its own constructors of `Instr` (R93). -/
inductive Reg
  | b | c | d | e | h | l | a
deriving DecidableEq, Repr

/-- The register pairs of the 2-bit field `pp` (R94). In PUSH and POP the code 11 is PSW, which has its
own constructors of `Instr`; LDAX and STAX have a 1-bit field, BC or DE only. -/
inductive Pair
  | bc | de | hl | sp
deriving DecidableEq, Repr

/-- The eight conditions `ccc` of jumps, calls and returns (R95, R150). -/
inductive Cond
  | nz | z | nc | c | po | pe | p | m
deriving DecidableEq, Repr

/-- The instructions of the KP1821BM85: the KP580BM80's and the twelve new ones (R3, R99, R101). -/
inductive Instr
  /-- MOV r1,r2 (R120) -/
  | movRR (dst src : Reg)
  /-- MOV r,M (R121) -/
  | movRM (dst : Reg)
  /-- MOV M,r (R122) -/
  | movMR (src : Reg)
  /-- HLT (R276) -/
  | hlt
  /-- MVI r,d8 (R123) -/
  | mviR (dst : Reg) (d8 : Byte)
  /-- MVI M,d8 (R124) -/
  | mviM (d8 : Byte)
  /-- LXI rp,d16 (R125) -/
  | lxi (rp : Pair) (d16 : Word)
  /-- LDA a16 (R126) -/
  | lda (a16 : Word)
  /-- STA a16 (R127) -/
  | sta (a16 : Word)
  /-- LHLD a16 (R128) -/
  | lhld (a16 : Word)
  /-- SHLD a16 (R129) -/
  | shld (a16 : Word)
  /-- LDAX B or D (R130) -/
  | ldax (rp : Pair)
  /-- STAX B or D (R131) -/
  | stax (rp : Pair)
  /-- XCHG (R132) -/
  | xchg
  /-- LDHI d8 (R133) -/
  | ldhi (d8 : Byte)
  /-- LDSI d8 (R134) -/
  | ldsi (d8 : Byte)
  /-- LHLX (R135) -/
  | lhlx
  /-- SHLX (R136) -/
  | shlx
  /-- PUSH B, D or H (R142) -/
  | push (rp : Pair)
  /-- PUSH PSW (R143) -/
  | pushPsw
  /-- POP B, D or H (R144) -/
  | pop (rp : Pair)
  /-- POP PSW (R145) -/
  | popPsw
  /-- XTHL (R146) -/
  | xthl
  /-- SPHL (R147) -/
  | sphl
  /-- JMP a16 (R151) -/
  | jmp (a16 : Word)
  /-- JNZ a16 (R152) -/
  | jnz (a16 : Word)
  /-- JZ a16 (R153) -/
  | jz (a16 : Word)
  /-- JNC a16 (R154) -/
  | jnc (a16 : Word)
  /-- JC a16 (R155) -/
  | jc (a16 : Word)
  /-- JPO a16 (R156) -/
  | jpo (a16 : Word)
  /-- JPE a16 (R157) -/
  | jpe (a16 : Word)
  /-- JP a16 (R158) -/
  | jp (a16 : Word)
  /-- JM a16 (R159) -/
  | jm (a16 : Word)
  /-- PCHL (R160) -/
  | pchl
  /-- CALL a16 (R161) -/
  | call (a16 : Word)
  /-- CNZ a16 (R162) -/
  | cnz (a16 : Word)
  /-- CZ a16 (R163) -/
  | cz (a16 : Word)
  /-- CNC a16 (R164) -/
  | cnc (a16 : Word)
  /-- CC a16 (R165) -/
  | cc (a16 : Word)
  /-- CPO a16 (R166) -/
  | cpo (a16 : Word)
  /-- CPE a16 (R167) -/
  | cpe (a16 : Word)
  /-- CP a16 (R168): a call, not a compare -/
  | cp (a16 : Word)
  /-- CM a16 (R169) -/
  | cm (a16 : Word)
  /-- JNK a16 (R171) -/
  | jnk (a16 : Word)
  /-- JK a16 (R172) -/
  | jk (a16 : Word)
  /-- RET (R180) -/
  | ret
  /-- RNZ (R181) -/
  | rnz
  /-- RZ (R182) -/
  | rz
  /-- RNC (R183) -/
  | rnc
  /-- RC (R184) -/
  | rc
  /-- RPO (R185) -/
  | rpo
  /-- RPE (R186) -/
  | rpe
  /-- RP (R187) -/
  | rp
  /-- RM (R188) -/
  | rm
  /-- RST n (R190) -/
  | rst (n : BitVec 3)
  /-- RSTV (R191) -/
  | rstv
  /-- IN p8 (R200) -/
  | inPort (p8 : Byte)
  /-- OUT p8 (R201) -/
  | outPort (p8 : Byte)
  /-- ADD r (R213) -/
  | addR (src : Reg)
  /-- ADD M (R214) -/
  | addM
  /-- ADI d8 (R215) -/
  | adi (d8 : Byte)
  /-- ADC r (R216) -/
  | adcR (src : Reg)
  /-- ADC M (R217) -/
  | adcM
  /-- ACI d8 (R218) -/
  | aci (d8 : Byte)
  /-- SUB r (R219) -/
  | subR (src : Reg)
  /-- SUB M (R220) -/
  | subM
  /-- SUI d8 (R221) -/
  | sui (d8 : Byte)
  /-- SBB r (R222) -/
  | sbbR (src : Reg)
  /-- SBB M (R223) -/
  | sbbM
  /-- SBI d8 (R224) -/
  | sbi (d8 : Byte)
  /-- ANA r (R225) -/
  | anaR (src : Reg)
  /-- ANA M (R226) -/
  | anaM
  /-- ANI d8 (R227) -/
  | ani (d8 : Byte)
  /-- XRA r (R228) -/
  | xraR (src : Reg)
  /-- XRA M (R229) -/
  | xraM
  /-- XRI d8 (R230) -/
  | xri (d8 : Byte)
  /-- ORA r (R231) -/
  | oraR (src : Reg)
  /-- ORA M (R232) -/
  | oraM
  /-- ORI d8 (R233) -/
  | ori (d8 : Byte)
  /-- CMP r (R234) -/
  | cmpR (src : Reg)
  /-- CMP M (R235) -/
  | cmpM
  /-- CPI d8 (R236) -/
  | cpi (d8 : Byte)
  /-- DAD rp (R237) -/
  | dad (rp : Pair)
  /-- DSUB (R238) -/
  | dsub
  /-- RLC (R245) -/
  | rlc
  /-- RRC (R246) -/
  | rrc
  /-- RAL (R247) -/
  | ral
  /-- RAR (R248) -/
  | rar
  /-- ARHL (R249) -/
  | arhl
  /-- RDEL (R250) -/
  | rdel
  /-- INR r (R255) -/
  | inrR (dst : Reg)
  /-- INR M (R256) -/
  | inrM
  /-- DCR r (R257) -/
  | dcrR (dst : Reg)
  /-- DCR M (R258) -/
  | dcrM
  /-- INX rp (R259) -/
  | inx (rp : Pair)
  /-- DCX rp (R260) -/
  | dcx (rp : Pair)
  /-- DAA (R265) -/
  | daa
  /-- CMA (R266) -/
  | cma
  /-- STC (R267) -/
  | stc
  /-- CMC (R268) -/
  | cmc
  /-- RIM (R269) -/
  | rim
  /-- SIM (R270) -/
  | sim
  /-- NOP (R275) -/
  | nop
  /-- EI (R277) -/
  | ei
  /-- DI (R278) -/
  | di
deriving DecidableEq, Repr

end Sys2Proof
end

