-- ==== Sys2Proof/Machine/Operands.lean ====
section
/-! DEFINITION. The operand forms: registers and pairs (R22, R23, R93, R94), and the condition test
(R150). The memory forms (M, BC, DE, a16, the stack) are addresses read and written by Machine/Ops.lean. -/

namespace Sys2Proof.Machine

/-- `r[i]` (R22, R93). -/
def Regs.get (g : Regs) : Reg → Byte
  | .b => g.b
  | .c => g.c
  | .d => g.d
  | .e => g.e
  | .h => g.h
  | .l => g.l
  | .a => g.a

/-- `r[i] <- v` (R22, R93). -/
def Regs.set (g : Regs) (r : Reg) (v : Byte) : Regs :=
  match r with
  | .b => { g with b := v }
  | .c => { g with c := v }
  | .d => { g with d := v }
  | .e => { g with e := v }
  | .h => { g with h := v }
  | .l => { g with l := v }
  | .a => { g with a := v }

/-- `r[i]` in a state. -/
def State.reg (s : State) (r : Reg) : Byte := s.regs.get r

/-- `r[i] <- v` in a state. -/
def State.setReg (s : State) (r : Reg) (v : Byte) : State := { s with regs := s.regs.set r v }

/-- The 16-bit value BC (R23). -/
def State.bc (s : State) : Word := mkWord s.regs.b s.regs.c

/-- The 16-bit value DE (R23). -/
def State.de (s : State) : Word := mkWord s.regs.d s.regs.e

/-- The 16-bit value HL, the memory pointer of every `M` operand (R23). -/
def State.hl (s : State) : Word := mkWord s.regs.h s.regs.l

/-- `rp[j]` (R94). -/
def State.pair (s : State) : Pair → Word
  | .bc => s.bc
  | .de => s.de
  | .hl => s.hl
  | .sp => s.sp

/-- `rp[j] <- v`: the high byte to B, D or H, the low byte to C, E or L (R23, R125). -/
def State.setPair (s : State) (rp : Pair) (v : Word) : State :=
  match rp with
  | .bc => { s with regs := { s.regs with b := hiByte v, c := loByte v } }
  | .de => { s with regs := { s.regs with d := hiByte v, e := loByte v } }
  | .hl => { s with regs := { s.regs with h := hiByte v, l := loByte v } }
  | .sp => { s with sp := v }

/-- `pc <- v`. -/
def State.setPc (s : State) (v : Word) : State := { s with pc := v }

/-- `cond(ccc)` (R95, R150). -/
def condHolds (test : Cond) (f : Flags) : Bool :=
  match test with
  | .nz => !f.z
  | .z => f.z
  | .nc => !f.cy
  | .c => f.cy
  | .po => !f.p
  | .pe => f.p
  | .p => !f.s
  | .m => f.s

end Sys2Proof.Machine
end

