-- ==== Sys2Proof/Machine/Ops.lean ====
section
/-! DEFINITION. The named operations every meaning is made of: free values, the environment's answers and
the event trace, the other master, bus transfers to memory and ports, fetching a byte, the stack primitives,
the jump forms, interrupt entry and the return (20_memory.md, 41_stack.md, 60_exceptions.md). -/

namespace Sys2Proof.Machine

/-! ## Free values -/

/-- Count one free value as drawn. -/
def State.nextFresh (s : State) : State := { s with env := { s.env with fresh := s.env.fresh + 1 } }

/-- A `draw` of one bit (00_scope.md section 6; entry 11). -/
def drawBit (s : State) : Bool × State := (Config.freeBit s.env.fresh, s.nextFresh)

/-- A `draw` of one byte (entry 11). -/
def drawByte (s : State) : Byte × State := (Config.freeByte s.env.fresh, s.nextFresh)

/-- A bit that a parameter fixes or leaves a `draw` (U5, U6). -/
def openBit (o : OpenBit) (s : State) : Bool × State :=
  match o with
  | .zero => (false, s)
  | .one => (true, s)
  | .draw => drawBit s

/-! ## The ten unnamed instructions -/

/-- The effect of one of the ten instructions the source does not name: t where EXT10 is `admitted`, a
refusal by name where it is `refused` (R101). -/
def ifAdmitted (s : State) (mnemonic : String) (t : State) : Result :=
  if s.params.ext10 then .next t else .refused (.ext10 mnemonic)

/-! ## The environment -/

/-- Add an event to the trace (R63, D11). -/
def State.log (s : State) (e : Event) : State :=
  { s with env := { s.env with trace := e :: s.env.trace } }

/-- The byte the environment puts on the bus now: the script's next byte, and a free one when the script
has none (R63; entry 13). -/
def busAnswer (s : State) : Byte × State :=
  match s.env.busIn with
  | [] => drawByte s
  | v :: rest => (v, { s with env := { s.env with busIn := rest } })

/-! ## Memory as data -/

/-- The kind of an address in a map: the first region that holds it decides, ram where none does (R73). -/
def kindIn : List Region → Nat → MemKind
  | [], _ => .ram
  | r :: rest, a => if r.base ≤ a ∧ a < r.base + r.size then r.kind else kindIn rest a

/-- The kind of an address (R73). -/
def State.kindAt (s : State) (a : Word) : MemKind := kindIn s.params.memMap a.toNat

/-- The byte memory holds at an address, whatever stands there. -/
def State.peek (s : State) (a : Word) : Byte := s.mem.get a.toNat

/-- Put a byte into memory from outside, whatever stands there. -/
def State.poke (s : State) (a : Word) (v : Byte) : State := { s with mem := s.mem.set a.toNat v }

/-! ## The other master -/

/-- One write of the other master: it changes ram bytes only (R73, D18). -/
def dmaWrite (s : State) (w : DmaWrite) : State :=
  match s.kindAt w.1 with
  | .ram => s.poke w.1 w.2
  | .rom | .absent | .device => s

/-- The processor gives the bus away and gets it back: where DMA_PRESENT is true the other master has written
these bytes; the request was acknowledged, and no processor state has changed (R340). -/
def holdBus (ws : List DmaWrite) (s : State) : State :=
  ((if s.params.dmaPresent then ws else []).foldl dmaWrite s).log .holdAck

/-- The machine-cycle boundary before a bus transfer inside a slot: where DMA_PRESENT is true, a hold may
fall there, between the halves of a two-byte access or between the read and the write of INR M, DCR M and
XTHL too (R69, R75, R340). -/
def State.atCycle (s : State) : State :=
  if s.params.dmaPresent then
    match s.env.holds with
    | [] => s
    | none :: rest => { s with env := { s.env with holds := rest } }
    | some ws :: rest => holdBus ws { s with env := { s.env with holds := rest } }
  else s

/-! ## Bus transfers -/

/-- `IoRead(p)` (R63). -/
def ioRead (s : State) (p : Byte) : Byte × State :=
  let r := busAnswer s.atCycle
  (r.1, r.2.log (.ioRead p r.1))

/-- `IoWrite(p, v)`: an event, no change of processor or memory (R63). -/
def ioWrite (s : State) (p v : Byte) : State := s.atCycle.log (.ioWrite p v)

/-- `IntaRead()` (R325). -/
def intaRead (s : State) : Byte × State :=
  let r := busAnswer s.atCycle
  (r.1, r.2.log (.intaRead r.1))

/-- The byte that comes over the bus from an address, by its kind (R64, R73). -/
def transferIn (s : State) (a : Word) : Byte × State :=
  match s.kindAt a with
  | .ram | .rom => (s.peek a, s)
  | .absent => drawByte s
  | .device =>
    let r := busAnswer s
    (r.1, r.2.log (.devRead a r.1))

/-- What becomes of a byte that goes over the bus to an address, by its kind (R65, R73). -/
def transferOut (s : State) (a : Word) (v : Byte) : State :=
  match s.kindAt a with
  | .ram => s.poke a v
  | .rom | .absent => s
  | .device => s.log (.devWrite a v)

/-- `MemRead(addr, 1)`: one bus transfer (R64). -/
def memRead (s : State) (a : Word) : Byte × State := transferIn s.atCycle a

/-- `MemWrite(addr, 1, v)`: one bus transfer (R65). -/
def memWrite (s : State) (a : Word) (v : Byte) : State := transferOut s.atCycle a v

/-- `MemRead(addr, 2)`: the low byte first, from the lower address (R66). -/
def memRead16 (s : State) (a : Word) : Word × State :=
  let lo := memRead s a
  let hi := memRead lo.2 (a + 1)
  (mkWord hi.1 lo.1, hi.2)

/-- `MemWrite(addr, 2, v)`: the low byte first, to the lower address (R66). -/
def memWrite16 (s : State) (a : Word) (v : Word) : State :=
  memWrite (memWrite s a (loByte v)) (a + 1) (hiByte v)

/-- `fetch8()` (R27). -/
def fetch8 (s : State) : Byte × State :=
  let r := memRead s s.pc
  (r.1, r.2.setPc (s.pc + 1))

/-! ## Stack -/

/-- `push16(v)`: the high byte to sp - 1, then the low byte to sp - 2, then sp lower by two (R140). -/
def push16 (s : State) (v : Word) : State :=
  let s1 := memWrite s (s.sp - 1) (hiByte v)
  let s2 := memWrite s1 (s.sp - 2) (loByte v)
  { s2 with sp := s.sp - 2 }

/-- `pop16()`: the low byte from sp, then the high byte from sp + 1, then sp higher by two (R141). -/
def pop16 (s : State) : Word × State :=
  let r := memRead16 s s.sp
  (r.1, { r.2 with sp := s.sp + 2 })

/-! ## Jumps, calls and returns -/

/-- `pc <- a` when the test holds (R152, R171). -/
def jumpIf (t : Bool) (a : Word) (s : State) : State := if t then s.setPc a else s

/-- `push16(pc); pc <- a` (R161, R190). -/
def callTo (a : Word) (s : State) : State := (push16 s s.pc).setPc a

/-- The call when the test holds (R162, R191). -/
def callIf (t : Bool) (a : Word) (s : State) : State := if t then callTo a s else s

/-- `pc <- pop16()` (R180): also the return from an interrupt handler, which restores PC and nothing else
(R327). -/
def returnFrom (s : State) : State :=
  let r := pop16 s
  r.2.setPc r.1

/-- The return when the test holds (R181). -/
def returnIf (t : Bool) (s : State) : State := if t then returnFrom s else s

/-! ## Interrupt entry -/

/-- What every entry does first: the halt ends, IE and EI_DELAY are cleared (R320, R325). -/
def State.enterHandler (s : State) : State :=
  { s with halted := false, intr := { s.intr with ie := false, eiDelay := false } }

/-- `take_interrupt(vector)` (R320): the only state it saves is PC, on the stack (R303). -/
def takeInterrupt (vector : Word) (s : State) : State := callTo vector s.enterHandler

end Sys2Proof.Machine
end

