-- ==== Sys2Proof/Machine/Flags.lean ====
section
/-! DEFINITION. Every flag computation: S, Z, P of a result (R32), the adder and the subtracter with their
carries (R210, R211), the rule of V and K with the parameter VK_EXACT (R35, R36, R39), the flag byte (R31),
and the whole accumulator operations (45_arith_logic.md). -/

namespace Sys2Proof.Machine

/-! ## Results of the ALU -/

/-- `parity(v)`: true when `v` has an even number of 1 bits (R32). -/
def parity (v : Byte) : Bool :=
  !(v.getLsbD 0 ^^ v.getLsbD 1 ^^ v.getLsbD 2 ^^ v.getLsbD 3 ^^
    v.getLsbD 4 ^^ v.getLsbD 5 ^^ v.getLsbD 6 ^^ v.getLsbD 7)

/-- What `add8` and `sub8` return; for `sub8` the third component is the borrow (R210, R211). -/
structure AluOut where
  res : Byte
  cy : Bool
  ac : Bool
  v : Bool
deriving DecidableEq, Repr

/-- `add8(a, b, cin)` (R210). -/
def add8 (a b : Byte) (cin : Bool) : AluOut :=
  let t := a.toNat + b.toNat + cin.toNat
  let cy := decide (t ≥ 256)
  let ac := decide (a.toNat % 16 + b.toNat % 16 + cin.toNat > 15)
  let c7in := decide (a.toNat % 128 + b.toNat % 128 + cin.toNat > 127)
  { res := BitVec.ofNat 8 t, cy := cy, ac := ac, v := c7in ^^ cy }

/-- `sub8(a, b, bin)`: the addition of the one's complement, the carry inverted, AC and V not (R211). -/
def sub8 (a b : Byte) (bin : Bool) : AluOut :=
  let o := add8 a (~~~b) (!bin)
  { o with cy := !o.cy }

/-! ## Writing the flags -/

/-- Write CY alone. -/
def State.setCy (s : State) (cy : Bool) : State := { s with flags := { s.flags with cy := cy } }

/-- `(S, Z, P) <- szp(res)` (R32). -/
def State.setSzp (s : State) (res : Byte) : State :=
  { s with flags := { s.flags with s := res.getLsbD 7, z := decide (res = 0), p := parity res } }

/-- Write AC alone. -/
def State.setAc (s : State) (ac : Bool) : State := { s with flags := { s.flags with ac := ac } }

/-- V and K after an instruction of R37's table other than POP PSW: the values R37 gives when VK_EXACT is
true, two free bits when it is false (R39). -/
def State.setVK (s : State) (v k : Bool) : State :=
  if s.params.vkExact then { s with flags := { s.flags with v := v, k := k } }
  else
    let dv := drawBit s
    let dk := drawBit dv.2
    { dk.2 with flags := { dk.2.flags with v := dv.1, k := dk.1 } }

/-- An instruction of R37's table whose V and K cells say unchanged: still two free bits when VK_EXACT is
false (R39; entry 3). -/
def State.keepVK (s : State) : State := s.setVK s.flags.v s.flags.k

/-- The flags of an 8-bit addition, subtraction or comparison: S, Z, P of the result, AC, V, K = V xor S,
and CY as the instruction says (R37, R210, R211). -/
def State.arithFlags (s : State) (o : AluOut) (cy : Bool) : State :=
  (((s.setSzp o.res).setAc o.ac).setCy cy).setVK o.v (o.v ^^ o.res.getLsbD 7)

/-- `logic(res, is_and)` (R212). -/
def State.logicFlags (s : State) (res : Byte) (isAnd : Bool) : State :=
  let ac := if isAnd then openBit s.params.anaAc s else (false, s)
  (((ac.2.setSzp res).setAc ac.1).setCy false).setVK false (res.getLsbD 7)

/-! ## The flag byte -/

/-- FLAGS, bit 7 first: S, Z, K, AC, (bit 3), P, V, CY (R31). -/
def Flags.toByte (f : Flags) (bit3 : Bool) : Byte := ofBits f.s f.z f.k f.ac bit3 f.p f.v f.cy

/-- The flags POP PSW loads; bit 3 is ignored (R31, R145). -/
def Flags.ofByte (v : Byte) : Flags where
  s := v.getLsbD 7
  z := v.getLsbD 6
  k := v.getLsbD 5
  ac := v.getLsbD 4
  p := v.getLsbD 2
  v := v.getLsbD 1
  cy := v.getLsbD 0

/-! ## The accumulator operations with a second operand `b` (45_arith_logic.md section 2) -/

/-- A <- A + b + cin (R213 to R218). -/
def accAdd (s : State) (b : Byte) (cin : Bool) : State :=
  let o := add8 s.regs.a b cin
  (s.setReg .a o.res).arithFlags o o.cy

/-- A <- A - b - bin (R219 to R224). -/
def accSub (s : State) (b : Byte) (bin : Bool) : State :=
  let o := sub8 s.regs.a b bin
  (s.setReg .a o.res).arithFlags o o.cy

/-- The flags of A - b; A is not written (R234 to R236). -/
def accCmp (s : State) (b : Byte) : State :=
  let o := sub8 s.regs.a b false
  s.arithFlags o o.cy

/-- A <- A and b (R225 to R227). -/
def accAnd (s : State) (b : Byte) : State :=
  let res := s.regs.a &&& b
  (s.setReg .a res).logicFlags res true

/-- A <- A xor b (R228 to R230). -/
def accXor (s : State) (b : Byte) : State :=
  let res := s.regs.a ^^^ b
  (s.setReg .a res).logicFlags res false

/-- A <- A or b (R231 to R233). -/
def accOr (s : State) (b : Byte) : State :=
  let res := s.regs.a ||| b
  (s.setReg .a res).logicFlags res false

end Sys2Proof.Machine
end

