-- ==== Sys2Proof/Machine/Arith.lean ====
section
/-! DEFINITION. Arithmetic and logical instructions (45_arith_logic.md): each of the eight accumulator
operations with a register, the memory byte at HL and an immediate byte, and the two 16-bit ones. -/

namespace Sys2Proof.Machine

/-- ADD r (R213). -/
def execAddR (src : Reg) (s : State) : Result := .next (accAdd s (s.reg src) false)

/-- ADD M (R214). -/
def execAddM (s : State) : Result :=
  let m := memRead s s.hl
  .next (accAdd m.2 m.1 false)

/-- ADI d8 (R215). -/
def execAdi (d8 : Byte) (s : State) : Result := .next (accAdd s d8 false)

/-- ADC r (R216). -/
def execAdcR (src : Reg) (s : State) : Result := .next (accAdd s (s.reg src) s.flags.cy)

/-- ADC M (R217). -/
def execAdcM (s : State) : Result :=
  let m := memRead s s.hl
  .next (accAdd m.2 m.1 s.flags.cy)

/-- ACI d8 (R218). -/
def execAci (d8 : Byte) (s : State) : Result := .next (accAdd s d8 s.flags.cy)

/-- SUB r (R219). -/
def execSubR (src : Reg) (s : State) : Result := .next (accSub s (s.reg src) false)

/-- SUB M (R220). -/
def execSubM (s : State) : Result :=
  let m := memRead s s.hl
  .next (accSub m.2 m.1 false)

/-- SUI d8 (R221). -/
def execSui (d8 : Byte) (s : State) : Result := .next (accSub s d8 false)

/-- SBB r (R222). -/
def execSbbR (src : Reg) (s : State) : Result := .next (accSub s (s.reg src) s.flags.cy)

/-- SBB M (R223). -/
def execSbbM (s : State) : Result :=
  let m := memRead s s.hl
  .next (accSub m.2 m.1 s.flags.cy)

/-- SBI d8 (R224). -/
def execSbi (d8 : Byte) (s : State) : Result := .next (accSub s d8 s.flags.cy)

/-- ANA r (R225). -/
def execAnaR (src : Reg) (s : State) : Result := .next (accAnd s (s.reg src))

/-- ANA M (R226). -/
def execAnaM (s : State) : Result :=
  let m := memRead s s.hl
  .next (accAnd m.2 m.1)

/-- ANI d8 (R227). -/
def execAni (d8 : Byte) (s : State) : Result := .next (accAnd s d8)

/-- XRA r (R228). -/
def execXraR (src : Reg) (s : State) : Result := .next (accXor s (s.reg src))

/-- XRA M (R229). -/
def execXraM (s : State) : Result :=
  let m := memRead s s.hl
  .next (accXor m.2 m.1)

/-- XRI d8 (R230). -/
def execXri (d8 : Byte) (s : State) : Result := .next (accXor s d8)

/-- ORA r (R231). -/
def execOraR (src : Reg) (s : State) : Result := .next (accOr s (s.reg src))

/-- ORA M (R232). -/
def execOraM (s : State) : Result :=
  let m := memRead s s.hl
  .next (accOr m.2 m.1)

/-- ORI d8 (R233). -/
def execOri (d8 : Byte) (s : State) : Result := .next (accOr s d8)

/-- CMP r (R234). -/
def execCmpR (src : Reg) (s : State) : Result := .next (accCmp s (s.reg src))

/-- CMP M (R235). -/
def execCmpM (s : State) : Result :=
  let m := memRead s s.hl
  .next (accCmp m.2 m.1)

/-- CPI d8 (R236). -/
def execCpi (d8 : Byte) (s : State) : Result := .next (accCmp s d8)

/-- DAD rp: HL <- HL + rp; CY is the carry out of bit 15, V the 16-bit overflow, K is left (R237). -/
def execDad (rp : Pair) (s : State) : Result :=
  let x := s.hl
  let y := s.pair rp
  let t := x + y
  let cy := decide (x.toNat + y.toNat ≥ 65536)
  let v := decide (x.getLsbD 15 = y.getLsbD 15 ∧ t.getLsbD 15 ≠ x.getLsbD 15)
  .next (((s.setPair .hl t).setCy cy).setVK v s.flags.k)

/-- DSUB: HL <- HL - BC; CY is the borrow, V the 16-bit overflow, S bit 15 of the result, K = V xor S;
Z, P and AC are three free bits whatever VK_EXACT is (R238, D27). -/
def execDsub (s : State) : Result :=
  let x := s.hl
  let y := s.bc
  let t := x - y
  let cy := decide (x.toNat < y.toNat)
  let v := decide (x.getLsbD 15 ≠ y.getLsbD 15 ∧ t.getLsbD 15 ≠ x.getLsbD 15)
  let sign := t.getLsbD 15
  let z := drawBit s
  let p := drawBit z.2
  let ac := drawBit p.2
  let s1 := ac.2.setPair .hl t
  let flags := { s1.flags with s := sign, z := z.1, ac := ac.1, p := p.1, cy := cy }
  ifAdmitted s "DSUB" ({ s1 with flags := flags }.setVK v (v ^^ sign))

end Sys2Proof.Machine
end

