-- ==== Sys2Proof/Machine/Branch.lean ====
section
/-! DEFINITION. Branching and subroutine calls (42_branch_call.md). No one of them changes a flag; PC stands
past the three bytes when a meaning starts, so a test that fails leaves it there. -/

namespace Sys2Proof.Machine

/-- JMP a16 (R151). -/
def execJmp (a16 : Word) (s : State) : Result := .next (s.setPc a16)

/-- JNZ a16 (R152). -/
def execJnz (a16 : Word) (s : State) : Result := .next (jumpIf (condHolds .nz s.flags) a16 s)

/-- JZ a16 (R153). -/
def execJz (a16 : Word) (s : State) : Result := .next (jumpIf (condHolds .z s.flags) a16 s)

/-- JNC a16 (R154). -/
def execJnc (a16 : Word) (s : State) : Result := .next (jumpIf (condHolds .nc s.flags) a16 s)

/-- JC a16 (R155). -/
def execJc (a16 : Word) (s : State) : Result := .next (jumpIf (condHolds .c s.flags) a16 s)

/-- JPO a16 (R156). -/
def execJpo (a16 : Word) (s : State) : Result := .next (jumpIf (condHolds .po s.flags) a16 s)

/-- JPE a16 (R157). -/
def execJpe (a16 : Word) (s : State) : Result := .next (jumpIf (condHolds .pe s.flags) a16 s)

/-- JP a16 (R158). -/
def execJp (a16 : Word) (s : State) : Result := .next (jumpIf (condHolds .p s.flags) a16 s)

/-- JM a16 (R159). -/
def execJm (a16 : Word) (s : State) : Result := .next (jumpIf (condHolds .m s.flags) a16 s)

/-- PCHL (R160). -/
def execPchl (s : State) : Result := .next (s.setPc s.hl)

/-- CALL a16 (R161). -/
def execCall (a16 : Word) (s : State) : Result := .next (callTo a16 s)

/-- CNZ a16 (R162). -/
def execCnz (a16 : Word) (s : State) : Result := .next (callIf (condHolds .nz s.flags) a16 s)

/-- CZ a16 (R163). -/
def execCz (a16 : Word) (s : State) : Result := .next (callIf (condHolds .z s.flags) a16 s)

/-- CNC a16 (R164). -/
def execCnc (a16 : Word) (s : State) : Result := .next (callIf (condHolds .nc s.flags) a16 s)

/-- CC a16 (R165). -/
def execCc (a16 : Word) (s : State) : Result := .next (callIf (condHolds .c s.flags) a16 s)

/-- CPO a16 (R166). -/
def execCpo (a16 : Word) (s : State) : Result := .next (callIf (condHolds .po s.flags) a16 s)

/-- CPE a16 (R167). -/
def execCpe (a16 : Word) (s : State) : Result := .next (callIf (condHolds .pe s.flags) a16 s)

/-- CP a16 (R168). -/
def execCp (a16 : Word) (s : State) : Result := .next (callIf (condHolds .p s.flags) a16 s)

/-- CM a16 (R169). -/
def execCm (a16 : Word) (s : State) : Result := .next (callIf (condHolds .m s.flags) a16 s)

/-- JNK a16: jump if K = 0 (R171). -/
def execJnk (a16 : Word) (s : State) : Result := ifAdmitted s "JNK" (jumpIf (!s.flags.k) a16 s)

/-- JK a16: jump if K = 1 (R172). -/
def execJk (a16 : Word) (s : State) : Result := ifAdmitted s "JK" (jumpIf s.flags.k a16 s)

end Sys2Proof.Machine
end

