-- ==== Sys2Proof/Machine/Control.lean ====
section
/-! DEFINITION. Control instructions: NOP, HLT, EI, DI (49_control.md). -/

namespace Sys2Proof.Machine

/-- NOP: PC has already advanced (R275). -/
def execNop (s : State) : Result := .next s

/-- HLT: PC already stands at the byte after it (R276). -/
def execHlt (s : State) : Result := .next { s with halted := true }

/-- EI: the step clears EI_DELAY before the next instruction (R277, R311). -/
def execEi (s : State) : Result :=
  .next { s with intr := { s.intr with ie := true, eiDelay := true } }

/-- DI (R278). -/
def execDi (s : State) : Result := .next { s with intr := { s.intr with ie := false } }

end Sys2Proof.Machine
end

