-- ==== Sys2Proof/Machine/IncDec.lean ====
section
/-! DEFINITION. Increment and decrement (47_incdec.md). -/

namespace Sys2Proof.Machine

/-- INR r: every flag but CY (R255). -/
def execInrR (dst : Reg) (s : State) : Result :=
  let o := add8 (s.reg dst) 1 false
  .next ((s.setReg dst o.res).arithFlags o s.flags.cy)

/-- INR M: a read, then a write of the same address; every flag but CY (R256). -/
def execInrM (s : State) : Result :=
  let m := memRead s s.hl
  let o := add8 m.1 1 false
  .next ((memWrite m.2 s.hl o.res).arithFlags o s.flags.cy)

/-- DCR r: every flag but CY (R257). -/
def execDcrR (dst : Reg) (s : State) : Result :=
  let o := sub8 (s.reg dst) 1 false
  .next ((s.setReg dst o.res).arithFlags o s.flags.cy)

/-- DCR M: a read, then a write of the same address; every flag but CY (R258). -/
def execDcrM (s : State) : Result :=
  let m := memRead s s.hl
  let o := sub8 m.1 1 false
  .next ((memWrite m.2 s.hl o.res).arithFlags o s.flags.cy)

/-- INX rp: no flag but K, the carry out of the 16-bit counter (R259). -/
def execInx (rp : Pair) (s : State) : Result :=
  let t := s.pair rp + 1
  .next ((s.setPair rp t).setVK s.flags.v (decide (t = 0x0000)))

/-- DCX rp: no flag but K, the borrow out of the 16-bit counter (R260). -/
def execDcx (rp : Pair) (s : State) : Result :=
  let t := s.pair rp - 1
  .next ((s.setPair rp t).setVK s.flags.v (decide (t = 0xFFFF)))

end Sys2Proof.Machine
end

