-- ==== Sys2Proof/Machine/Io.lean ====
section
/-! DEFINITION. Input and output instructions (44_io.md). -/

namespace Sys2Proof.Machine

/-- IN p8: no flag is set from the byte read (R200). -/
def execInPort (p8 : Byte) (s : State) : Result :=
  let r := ioRead s p8
  .next (r.2.setReg .a r.1)

/-- OUT p8 (R201). -/
def execOutPort (p8 : Byte) (s : State) : Result := .next (ioWrite s p8 s.regs.a)

end Sys2Proof.Machine
end

