-- ==== Sys2Proof/Decode.lean ====
section
/-! DEFINITION. Decoding and encoding (30_encoding.md). The first byte alone fixes the length and the
meaning of the other bytes (R90); every first byte selects an instruction and every operand value is legal
(R100), so the decoder rejects one thing only, an instruction whose bytes are not all there. -/

namespace Sys2Proof

open Sys2Proof.Machine

/-- Why a byte list does not decode: it ends before the instruction does. -/
inductive DecodeError
  /-- there is no first byte -/
  | noFirstByte
  /-- the first byte starts a 2- or 3-byte instruction and the list ends before its last byte -/
  | operandMissing (first : Byte)
deriving DecidableEq, Repr

/-- The length in bytes that a first byte fixes: the bit tests of R97. -/
def lengthOf (b1 : Byte) : Nat :=
  if (b1 &&& 0xC7#8) = 0xC2#8 ∨ (b1 &&& 0xC7#8) = 0xC4#8 ∨ (b1 &&& 0xCF#8) = 0x01#8 ∨
      (b1 &&& 0xE7#8) = 0x22#8 ∨ b1 = 0xC3#8 ∨ b1 = 0xCD#8 ∨ b1 = 0xDD#8 ∨ b1 = 0xFD#8 then 3
  else if (b1 &&& 0xC7#8) = 0x06#8 ∨ (b1 &&& 0xC7#8) = 0xC6#8 ∨ (b1 &&& 0xF7#8) = 0xD3#8 ∨
      b1 = 0x28#8 ∨ b1 = 0x38#8 then 2
  else 1

/-- The register a 3-bit field names; none for 110, the memory byte at HL (R93). -/
def regOfCode : BitVec 3 → Option Reg
  | 0b000 => some .b
  | 0b001 => some .c
  | 0b010 => some .d
  | 0b011 => some .e
  | 0b100 => some .h
  | 0b101 => some .l
  | 0b110 => none
  | 0b111 => some .a

/-- The pair a 2-bit field names in LXI, DAD, INX, DCX (R94). -/
def pairOfCode : BitVec 2 → Pair
  | 0b00 => .bc
  | 0b01 => .de
  | 0b10 => .hl
  | 0b11 => .sp

/-- `01dddsss`: MOV in its three forms, and HLT where both fields are 110 (R92, R93). -/
def decodeMov (b1 : Byte) : Instr :=
  match regOfCode (field53 b1), regOfCode (field20 b1) with
  | some dst, some src => .movRR dst src
  | some dst, none => .movRM dst
  | none, some src => .movMR src
  | none, none => .hlt

/-- `10ooosss`: the eight accumulator operations with a register or M (45_arith_logic.md section 2). -/
def decodeAlu (b1 : Byte) : Instr :=
  match field53 b1, regOfCode (field20 b1) with
  | 0b000, some r => .addR r
  | 0b000, none => .addM
  | 0b001, some r => .adcR r
  | 0b001, none => .adcM
  | 0b010, some r => .subR r
  | 0b010, none => .subM
  | 0b011, some r => .sbbR r
  | 0b011, none => .sbbM
  | 0b100, some r => .anaR r
  | 0b100, none => .anaM
  | 0b101, some r => .xraR r
  | 0b101, none => .xraM
  | 0b110, some r => .oraR r
  | 0b110, none => .oraM
  | 0b111, some r => .cmpR r
  | 0b111, none => .cmpM

/-- 00H to 3FH: the map's first four rows, column by column (R92, R99). -/
def decodeLow (b1 b2 b3 : Byte) : Instr :=
  let d16 := mkWord b3 b2
  match field20 b1 with
  | 0b000 =>
    match field53 b1 with
    | 0b000 => .nop
    | 0b001 => .dsub
    | 0b010 => .arhl
    | 0b011 => .rdel
    | 0b100 => .rim
    | 0b101 => .ldhi b2
    | 0b110 => .sim
    | 0b111 => .ldsi b2
  | 0b001 =>
    if b1.getLsbD 3 then .dad (pairOfCode (field54 b1)) else .lxi (pairOfCode (field54 b1)) d16
  | 0b010 =>
    match field53 b1 with
    | 0b000 => .stax .bc
    | 0b001 => .ldax .bc
    | 0b010 => .stax .de
    | 0b011 => .ldax .de
    | 0b100 => .shld d16
    | 0b101 => .lhld d16
    | 0b110 => .sta d16
    | 0b111 => .lda d16
  | 0b011 =>
    if b1.getLsbD 3 then .dcx (pairOfCode (field54 b1)) else .inx (pairOfCode (field54 b1))
  | 0b100 =>
    match regOfCode (field53 b1) with
    | some r => .inrR r
    | none => .inrM
  | 0b101 =>
    match regOfCode (field53 b1) with
    | some r => .dcrR r
    | none => .dcrM
  | 0b110 =>
    match regOfCode (field53 b1) with
    | some r => .mviR r b2
    | none => .mviM b2
  | 0b111 =>
    match field53 b1 with
    | 0b000 => .rlc
    | 0b001 => .rrc
    | 0b010 => .ral
    | 0b011 => .rar
    | 0b100 => .daa
    | 0b101 => .cma
    | 0b110 => .stc
    | 0b111 => .cmc

/-- C0H to FFH: the map's last four rows, column by column (R92, R95, R99). -/
def decodeHigh (b1 b2 b3 : Byte) : Instr :=
  let a16 := mkWord b3 b2
  match field20 b1 with
  | 0b000 =>
    match field53 b1 with
    | 0b000 => .rnz
    | 0b001 => .rz
    | 0b010 => .rnc
    | 0b011 => .rc
    | 0b100 => .rpo
    | 0b101 => .rpe
    | 0b110 => .rp
    | 0b111 => .rm
  | 0b001 =>
    match field53 b1 with
    | 0b000 => .pop .bc
    | 0b001 => .ret
    | 0b010 => .pop .de
    | 0b011 => .shlx
    | 0b100 => .pop .hl
    | 0b101 => .pchl
    | 0b110 => .popPsw
    | 0b111 => .sphl
  | 0b010 =>
    match field53 b1 with
    | 0b000 => .jnz a16
    | 0b001 => .jz a16
    | 0b010 => .jnc a16
    | 0b011 => .jc a16
    | 0b100 => .jpo a16
    | 0b101 => .jpe a16
    | 0b110 => .jp a16
    | 0b111 => .jm a16
  | 0b011 =>
    match field53 b1 with
    | 0b000 => .jmp a16
    | 0b001 => .rstv
    | 0b010 => .outPort b2
    | 0b011 => .inPort b2
    | 0b100 => .xthl
    | 0b101 => .xchg
    | 0b110 => .di
    | 0b111 => .ei
  | 0b100 =>
    match field53 b1 with
    | 0b000 => .cnz a16
    | 0b001 => .cz a16
    | 0b010 => .cnc a16
    | 0b011 => .cc a16
    | 0b100 => .cpo a16
    | 0b101 => .cpe a16
    | 0b110 => .cp a16
    | 0b111 => .cm a16
  | 0b101 =>
    match field53 b1 with
    | 0b000 => .push .bc
    | 0b001 => .call a16
    | 0b010 => .push .de
    | 0b011 => .jnk a16
    | 0b100 => .push .hl
    | 0b101 => .lhlx
    | 0b110 => .pushPsw
    | 0b111 => .jk a16
  | 0b110 =>
    match field53 b1 with
    | 0b000 => .adi b2
    | 0b001 => .aci b2
    | 0b010 => .sui b2
    | 0b011 => .sbi b2
    | 0b100 => .ani b2
    | 0b101 => .xri b2
    | 0b110 => .ori b2
    | 0b111 => .cpi b2
  | 0b111 => .rst (field53 b1)

/-- The instruction of three bytes in hand: byte 2 and byte 3 are read only where the first byte's length
has them (R91, R92, R98). -/
def decodeBytes (b1 b2 b3 : Byte) : Instr :=
  match b1.extractLsb' 6 2 with
  | 0b00 => decodeLow b1 b2 b3
  | 0b01 => decodeMov b1
  | 0b10 => decodeAlu b1
  | 0b11 => decodeHigh b1 b2 b3

/-- Decode the instruction at the head of a byte list and return the rest of the list (R97, R98). -/
def decode : List Byte → Except DecodeError (Instr × List Byte)
  | [] => .error .noFirstByte
  | b1 :: rest =>
    match lengthOf b1, rest with
    | 1, rest => .ok (decodeBytes b1 0 0, rest)
    | 2, b2 :: rest => .ok (decodeBytes b1 b2 0, rest)
    | 3, b2 :: b3 :: rest => .ok (decodeBytes b1 b2 b3, rest)
    | _, _ => .error (.operandMissing b1)

/-! ## The encoder, written from the same tables -/

/-- The 3-bit code of a register (R93). -/
def Reg.code : Reg → Byte
  | .b => 0
  | .c => 1
  | .d => 2
  | .e => 3
  | .h => 4
  | .l => 5
  | .a => 7

/-- The 2-bit code of a pair (R94). -/
def Pair.code : Pair → Byte
  | .bc => 0
  | .de => 1
  | .hl => 2
  | .sp => 3

/-- A first byte with the code `c` in bits 5:3. -/
def opAt53 (op c : Byte) : Byte := op ||| (c <<< 3)

/-- A first byte with the code `c` in bits 5:4. -/
def opAt54 (op c : Byte) : Byte := op ||| (c <<< 4)

/-- A first byte with the code `c` in bits 2:0. -/
def opAt20 (op c : Byte) : Byte := op ||| c

/-- The three bytes of an instruction with a 16-bit operand: low byte first (R96 (c)). -/
def encode3 (op : Byte) (v : Word) : List Byte := [op, loByte v, hiByte v]

/-- The bytes of a well-formed instruction, the first at the lowest address (R67, R91, R99). -/
def encode : Instr → List Byte
  | .movRR dst src => [opAt20 (opAt53 0x40 dst.code) src.code]
  | .movRM dst => [opAt53 0x46 dst.code]
  | .movMR r => [opAt20 0x70 r.code]
  | .hlt => [0x76]
  | .mviR dst v => [opAt53 0x06 dst.code, v]
  | .mviM v => [0x36, v]
  | .lxi rp v => encode3 (opAt54 0x01 rp.code) v
  | .lda v => encode3 0x3A v
  | .sta v => encode3 0x32 v
  | .lhld v => encode3 0x2A v
  | .shld v => encode3 0x22 v
  | .ldax rp => [opAt54 0x0A rp.code]
  | .stax rp => [opAt54 0x02 rp.code]
  | .xchg => [0xEB]
  | .ldhi v => [0x28, v]
  | .ldsi v => [0x38, v]
  | .lhlx => [0xED]
  | .shlx => [0xD9]
  | .push rp => [opAt54 0xC5 rp.code]
  | .pushPsw => [0xF5]
  | .pop rp => [opAt54 0xC1 rp.code]
  | .popPsw => [0xF1]
  | .xthl => [0xE3]
  | .sphl => [0xF9]
  | .jmp v => encode3 0xC3 v
  | .jnz v => encode3 0xC2 v
  | .jz v => encode3 0xCA v
  | .jnc v => encode3 0xD2 v
  | .jc v => encode3 0xDA v
  | .jpo v => encode3 0xE2 v
  | .jpe v => encode3 0xEA v
  | .jp v => encode3 0xF2 v
  | .jm v => encode3 0xFA v
  | .pchl => [0xE9]
  | .call v => encode3 0xCD v
  | .cnz v => encode3 0xC4 v
  | .cz v => encode3 0xCC v
  | .cnc v => encode3 0xD4 v
  | .cc v => encode3 0xDC v
  | .cpo v => encode3 0xE4 v
  | .cpe v => encode3 0xEC v
  | .cp v => encode3 0xF4 v
  | .cm v => encode3 0xFC v
  | .jnk v => encode3 0xDD v
  | .jk v => encode3 0xFD v
  | .ret => [0xC9]
  | .rnz => [0xC0]
  | .rz => [0xC8]
  | .rnc => [0xD0]
  | .rc => [0xD8]
  | .rpo => [0xE0]
  | .rpe => [0xE8]
  | .rp => [0xF0]
  | .rm => [0xF8]
  | .rst n => [opAt53 0xC7 (n.setWidth 8)]
  | .rstv => [0xCB]
  | .inPort p => [0xDB, p]
  | .outPort p => [0xD3, p]
  | .addR r => [opAt20 0x80 r.code]
  | .addM => [0x86]
  | .adi v => [0xC6, v]
  | .adcR r => [opAt20 0x88 r.code]
  | .adcM => [0x8E]
  | .aci v => [0xCE, v]
  | .subR r => [opAt20 0x90 r.code]
  | .subM => [0x96]
  | .sui v => [0xD6, v]
  | .sbbR r => [opAt20 0x98 r.code]
  | .sbbM => [0x9E]
  | .sbi v => [0xDE, v]
  | .anaR r => [opAt20 0xA0 r.code]
  | .anaM => [0xA6]
  | .ani v => [0xE6, v]
  | .xraR r => [opAt20 0xA8 r.code]
  | .xraM => [0xAE]
  | .xri v => [0xEE, v]
  | .oraR r => [opAt20 0xB0 r.code]
  | .oraM => [0xB6]
  | .ori v => [0xF6, v]
  | .cmpR r => [opAt20 0xB8 r.code]
  | .cmpM => [0xBE]
  | .cpi v => [0xFE, v]
  | .dad rp => [opAt54 0x09 rp.code]
  | .dsub => [0x08]
  | .rlc => [0x07]
  | .rrc => [0x0F]
  | .ral => [0x17]
  | .rar => [0x1F]
  | .arhl => [0x10]
  | .rdel => [0x18]
  | .inrR dst => [opAt53 0x04 dst.code]
  | .inrM => [0x34]
  | .dcrR dst => [opAt53 0x05 dst.code]
  | .dcrM => [0x35]
  | .inx rp => [opAt54 0x03 rp.code]
  | .dcx rp => [opAt54 0x0B rp.code]
  | .daa => [0x27]
  | .cma => [0x2F]
  | .stc => [0x37]
  | .cmc => [0x3F]
  | .rim => [0x20]
  | .sim => [0x30]
  | .nop => [0x00]
  | .ei => [0xFB]
  | .di => [0xF3]

/-! ## The opcode table's words -/

/-- The first `k` bytes of a word numbered as the opcode table numbers it: byte 1 is its bits 7..0. -/
def bytesOfTableWord : Nat → Nat → List Byte
  | 0, _ => []
  | k + 1, w => BitVec.ofNat 8 w :: bytesOfTableWord k (w / 256)

/-- The instruction the decoder reads from a row's word of `nbits` bits, the bits above them 0; the
longest instruction has three bytes (R90). -/
def decodeTableWord (nbits w : Nat) : Option Instr :=
  match decode (bytesOfTableWord 3 (w % 2 ^ nbits)) with
  | .ok (i, _) => some i
  | .error _ => none

end Sys2Proof
end

