-- ==== Sys2Proof/Machine/Interrupt.lean ====
section
/-! DEFINITION. The non-program events of an instruction slot: sampling the inputs, reset, hold, the five
interrupts with their priority, and their entries (60_exceptions.md, 70_reset_and_hazards.md). -/

namespace Sys2Proof.Machine

/-! ## Sampling -/

/-- The sample of the next sampling point: the script's next one; the present levels and nothing else where
the script has ended (entry 12). -/
def nextSample (s : State) : Sample :=
  match s.env.samples with
  | [] => Sample.quiet s.env.pins
  | x :: _ => x

/-- The state at that sampling point: the pins at the sample's levels, the script one shorter. -/
def State.atSample (s : State) : State :=
  { s with env := { s.env with pins := (nextSample s).pins, samples := s.env.samples.tail } }

/-- Latch update: an edge on pin 6 sets TRAPFF, one on pin 7 sets R7.5, whatever IE, the mask and EI_DELAY
are (R304). -/
def latchEdges (x : Sample) (s : State) : State :=
  { s with intr :=
    { s.intr with trapFF := s.intr.trapFF || x.edge6, r75 := s.intr.r75 || x.edge7 } }

/-! ## Reset and hold -/

/-- The reset of a running machine (R350): the control state at its reset values, the registers, the flags
and SP free values (R54), memory unchanged; the reset output is active. -/
def applyReset (s : State) : State :=
  let n := s.env.fresh
  { s with
    regs := ⟨Config.freeByte n, Config.freeByte (n + 1), Config.freeByte (n + 2),
      Config.freeByte (n + 3), Config.freeByte (n + 4), Config.freeByte (n + 5),
      Config.freeByte (n + 6)⟩
    flags := ⟨Config.freeBit (n + 7), Config.freeBit (n + 8), Config.freeBit (n + 9),
      Config.freeBit (n + 10), Config.freeBit (n + 11), Config.freeBit (n + 12),
      Config.freeBit (n + 13)⟩
    sp := Config.freeWord (n + 14)
    pc := 0
    intr :=
      { ie := false, m55 := true, m65 := true, m75 := true, r75 := false, trapFF := false,
        eiDelay := false, ieBeforeTrap := false, trapRimPending := false }
    halted := false
    tfd := false
    env := { s.env with trace := .resetOut :: s.env.trace, fresh := n + 15 } }

/-- A hold slot: a hold at the sampling point, before any interrupt (R340, R341). -/
def applyHold (x : Sample) (s : State) : State := holdBus x.dmaWrites s

/-! ## What is pending -/

/-- `en` (R305). -/
def enabled (s : State) : Bool := s.intr.ie && !s.intr.eiDelay

/-- `pend_trap` (R305). -/
def pendTrap (s : State) : Bool := s.intr.trapFF && s.env.pins.pin6

/-- `pend_75` (R305). -/
def pend75 (s : State) : Bool := enabled s && s.intr.r75 && !s.intr.m75

/-- `pend_65` (R305). -/
def pend65 (s : State) : Bool := enabled s && s.env.pins.pin8 && !s.intr.m65

/-- `pend_55` (R305). -/
def pend55 (s : State) : Bool := enabled s && s.env.pins.pin9 && !s.intr.m55

/-- `pend_intr` (R305). -/
def pendIntr (s : State) : Bool := enabled s && s.env.pins.pin10

/-- The five interrupts (R300). -/
inductive Interrupt
  | trap | rst75 | rst65 | rst55 | intr
deriving DecidableEq, Repr

/-- The one interrupt taken at a sampling point, if any: the first pending one in the order TRAP, RST 7.5,
RST 6.5, RST 5.5, INTR (R306). -/
def winner (s : State) : Option Interrupt :=
  if pendTrap s then some .trap
  else if pend75 s then some .rst75
  else if pend65 s then some .rst65
  else if pend55 s then some .rst55
  else if pendIntr s then some .intr
  else none

/-! ## The entries -/

/-- TRAP: IE is kept for the first RIM, TRAPFF is cleared, entry at 0024H (R330). -/
def takeTrap (s : State) : State :=
  takeInterrupt 0x0024
    { s with intr :=
      { s.intr with ieBeforeTrap := s.intr.ie, trapRimPending := true, trapFF := false } }

/-- RST 7.5: the latch is cleared, entry at 003CH (R332). -/
def takeRst75 (s : State) : State :=
  takeInterrupt 0x003C { s with intr := { s.intr with r75 := false } }

/-- RST 6.5: entry at 0034H; there is no latch to clear (R333). -/
def takeRst65 (s : State) : State := takeInterrupt 0x0034 s

/-- RST 5.5: entry at 002CH; there is no latch to clear (R333). -/
def takeRst55 (s : State) : State := takeInterrupt 0x002C s

/-- The target of RST n: `zext_16(nnn) * 8` (R96 (d), R190). -/
def rstTarget (n : BitVec 3) : Word := n.setWidth 16 * 8

/-- INTR: the device supplies RST n or CALL a16, byte by byte, and PC is not advanced; any other first byte,
or a form that INTA_FORMS leaves out, is refused (R325). -/
def takeIntr (s : State) : Result :=
  let r := intaRead s.enterHandler
  match decodeBytes r.1 0 0 with
  | .rst n =>
    if r.2.params.intaRst then .next (callTo (rstTarget n) r.2) else .refused (.intaByte r.1)
  | .call _ =>
    if r.2.params.intaCall then
      let lo := intaRead r.2
      let hi := intaRead lo.2
      .next (callTo (mkWord hi.1 lo.1) hi.2)
    else .refused (.intaByte r.1)
  | _ => .refused (.intaByte r.1)

/-- The entry of the interrupt taken (R311). -/
def takeWinner (w : Interrupt) (s : State) : Result :=
  match w with
  | .trap => .next (takeTrap s)
  | .rst75 => .next (takeRst75 s)
  | .rst65 => .next (takeRst65 s)
  | .rst55 => .next (takeRst55 s)
  | .intr => takeIntr s

end Sys2Proof.Machine
end

