-- ==== Sys2Proof/Machine/Return.lean ====
section
/-! DEFINITION. Returns and restarts (43_return_restart.md). No one of them changes a flag. -/

namespace Sys2Proof.Machine

/-- RET (R180). -/
def execRet (s : State) : Result := .next (returnFrom s)

/-- RNZ (R181). -/
def execRnz (s : State) : Result := .next (returnIf (condHolds .nz s.flags) s)

/-- RZ (R182). -/
def execRz (s : State) : Result := .next (returnIf (condHolds .z s.flags) s)

/-- RNC (R183). -/
def execRnc (s : State) : Result := .next (returnIf (condHolds .nc s.flags) s)

/-- RC (R184). -/
def execRc (s : State) : Result := .next (returnIf (condHolds .c s.flags) s)

/-- RPO (R185). -/
def execRpo (s : State) : Result := .next (returnIf (condHolds .po s.flags) s)

/-- RPE (R186). -/
def execRpe (s : State) : Result := .next (returnIf (condHolds .pe s.flags) s)

/-- RP (R187). -/
def execRp (s : State) : Result := .next (returnIf (condHolds .p s.flags) s)

/-- RM (R188). -/
def execRm (s : State) : Result := .next (returnIf (condHolds .m s.flags) s)

/-- RST n (R190). -/
def execRst (n : BitVec 3) (s : State) : Result := .next (callTo (rstTarget n) s)

/-- RSTV: a call to 0040H when V = 1 (R191). -/
def execRstv (s : State) : Result := ifAdmitted s "RSTV" (callIf s.flags.v 0x0040 s)

end Sys2Proof.Machine
end

