-- ==== Sys2Proof/Machine/Shift.lean ====
section
/-! DEFINITION. Rotates and shifts (46_shift.md): CY is the bit shifted out; S, Z, P and AC are unchanged. -/

namespace Sys2Proof.Machine

/-- RLC: bit 7 of A goes to bit 0 and to CY (R245). -/
def execRlc (s : State) : Result :=
  let a := s.regs.a
  let out := a.getLsbD 7
  .next (((s.setReg .a (a.extractLsb' 0 7 ++ BitVec.ofBool out)).setCy out).keepVK)

/-- RRC: bit 0 of A goes to bit 7 and to CY (R246). -/
def execRrc (s : State) : Result :=
  let a := s.regs.a
  let out := a.getLsbD 0
  .next (((s.setReg .a (BitVec.ofBool out ++ a.extractLsb' 1 7)).setCy out).keepVK)

/-- RAL: the 9 bits CY : A rotate left (R247). -/
def execRal (s : State) : Result :=
  let a := s.regs.a
  let a' : Byte := a.extractLsb' 0 7 ++ BitVec.ofBool s.flags.cy
  .next (((s.setReg .a a').setCy (a.getLsbD 7)).keepVK)

/-- RAR: the 9 bits CY : A rotate right (R248). -/
def execRar (s : State) : Result :=
  let a := s.regs.a
  let a' : Byte := BitVec.ofBool s.flags.cy ++ a.extractLsb' 1 7
  .next (((s.setReg .a a').setCy (a.getLsbD 0)).keepVK)

/-- ARHL: HL moves right by one, bit 15 keeps its value, bit 0 goes to CY (R249). -/
def execArhl (s : State) : Result :=
  let x := s.hl
  let x' : Word := BitVec.ofBool (x.getLsbD 15) ++ x.extractLsb' 1 15
  ifAdmitted s "ARHL" (((s.setPair .hl x').setCy (x.getLsbD 0)).keepVK)

/-- RDEL: the 17 bits CY : DE rotate left; V is set when the signed value changes sign, K is left
(R250). -/
def execRdel (s : State) : Result :=
  let x := s.de
  let x' : Word := x.extractLsb' 0 15 ++ BitVec.ofBool s.flags.cy
  ifAdmitted s "RDEL" (((s.setPair .de x').setCy (x.getLsbD 15)).setVK
    (x.getLsbD 15 ^^ x.getLsbD 14) s.flags.k)

end Sys2Proof.Machine
end

