-- ==== Sys2Proof/Machine/Special.lean ====
section
/-! DEFINITION. Special instructions: DAA, CMA, STC, CMC, RIM, SIM (48_special.md). -/

namespace Sys2Proof.Machine

/-- The correction DAA adds, and the carry it leaves; both tests are made on the old A (R265). -/
def daaCorrection (a : Byte) (ac cy : Bool) : Byte × Bool :=
  let low : Byte := if ac ∨ a.toNat % 16 > 9 then 0x06 else 0x00
  if cy ∨ a.toNat > 0x99 then (low + 0x60, true) else (low, cy)

/-- DAA: one addition of the whole correction gives A and the flags; CY is never cleared (R265). -/
def execDaa (s : State) : Result :=
  let corr := daaCorrection s.regs.a s.flags.ac s.flags.cy
  let o := add8 s.regs.a corr.1 false
  .next ((s.setReg .a o.res).arithFlags o corr.2)

/-- CMA (R266). -/
def execCma (s : State) : Result := .next ((s.setReg .a (~~~s.regs.a)).keepVK)

/-- STC (R267). -/
def execStc (s : State) : Result := .next ((s.setCy true).keepVK)

/-- CMC (R268). -/
def execCmc (s : State) : Result := .next ((s.setCy (!s.flags.cy)).keepVK)

/-- Bit 3 of the byte RIM loads, and the state after: IE, but for the first RIM after a TRAP entry, which
shows what TRAP_RIM_QUIRK says (R269, R331). -/
def rimIe (s : State) : Bool × State :=
  let served : State := { s with intr := { s.intr with trapRimPending := false } }
  if s.intr.trapRimPending then
    match s.params.trapRim with
    | .savedIE => (s.intr.ieBeforeTrap, served)
    | .currentIE => (s.intr.ie, s)
    | .draw => drawBit served
  else (s.intr.ie, s)

/-- RIM: serial input, pending requests, IE and masks, whether masked or not (R45, R269). -/
def execRim (s : State) : Result :=
  let ie := rimIe s
  .next (ie.2.setReg .a
    (ofBits s.env.pins.rcd s.intr.r75 s.env.pins.pin8 s.env.pins.pin9 ie.1
      s.intr.m75 s.intr.m65 s.intr.m55))

/-- SIM: three parts independent of each other, masks if bit 3, cancel R7.5 if bit 4, TFD if bit 6; bit 5
is ignored (R46, R270). -/
def execSim (s : State) : Result :=
  let a := s.regs.a
  let mse := a.getLsbD 3
  .next { s with
    intr := { s.intr with
      m75 := if mse then a.getLsbD 2 else s.intr.m75
      m65 := if mse then a.getLsbD 1 else s.intr.m65
      m55 := if mse then a.getLsbD 0 else s.intr.m55
      r75 := if a.getLsbD 4 then false else s.intr.r75 }
    tfd := if a.getLsbD 6 then a.getLsbD 7 else s.tfd }

end Sys2Proof.Machine
end

