-- ==== Sys2Proof/Machine/Stack.lean ====
section
/-! DEFINITION. Stack instructions (41_stack.md). -/

namespace Sys2Proof.Machine

/-- PUSH rp (R142). -/
def execPush (rp : Pair) (s : State) : Result := .next (push16 s (s.pair rp))

/-- PUSH PSW: A at sp - 1, FLAGS at sp - 2, bit 3 of it as FLAG_BIT3 says (R31, R143). -/
def execPushPsw (s : State) : Result :=
  let bit3 := openBit s.params.flagBit3 s
  .next (push16 bit3.2 (mkWord s.regs.a (s.flags.toByte bit3.1)))

/-- POP rp (R144). -/
def execPop (rp : Pair) (s : State) : Result :=
  let r := pop16 s
  .next (r.2.setPair rp r.1)

/-- POP PSW: A and all seven flags, V and K too whatever VK_EXACT is (R39, R145). -/
def execPopPsw (s : State) : Result :=
  let r := pop16 s
  .next { r.2.setReg .a (hiByte r.1) with flags := Flags.ofByte (loByte r.1) }

/-- XTHL: both reads, then H to sp + 1, then L to sp (R146). -/
def execXthl (s : State) : Result :=
  let r := memRead16 s s.sp
  let s1 := memWrite r.2 (s.sp + 1) s.regs.h
  let s2 := memWrite s1 s.sp s.regs.l
  .next (s2.setPair .hl r.1)

/-- SPHL (R147). -/
def execSphl (s : State) : Result := .next { s with sp := s.hl }

end Sys2Proof.Machine
end

