-- ==== Sys2Proof/Machine/Transfer.lean ====
section
/-! DEFINITION. Transfer and load instructions (40_transfer.md). No one of them changes a flag. -/

namespace Sys2Proof.Machine

/-- MOV r1,r2 (R120). -/
def execMovRR (dst src : Reg) (s : State) : Result := .next (s.setReg dst (s.reg src))

/-- MOV r,M: the address is the old HL (R121). -/
def execMovRM (dst : Reg) (s : State) : Result :=
  let m := memRead s s.hl
  .next (m.2.setReg dst m.1)

/-- MOV M,r (R122). -/
def execMovMR (src : Reg) (s : State) : Result := .next (memWrite s s.hl (s.reg src))

/-- MVI r,d8 (R123). -/
def execMviR (dst : Reg) (d8 : Byte) (s : State) : Result := .next (s.setReg dst d8)

/-- MVI M,d8 (R124). -/
def execMviM (d8 : Byte) (s : State) : Result := .next (memWrite s s.hl d8)

/-- LXI rp,d16 (R125). -/
def execLxi (rp : Pair) (d16 : Word) (s : State) : Result := .next (s.setPair rp d16)

/-- LDA a16 (R126). -/
def execLda (a16 : Word) (s : State) : Result :=
  let m := memRead s a16
  .next (m.2.setReg .a m.1)

/-- STA a16 (R127). -/
def execSta (a16 : Word) (s : State) : Result := .next (memWrite s a16 s.regs.a)

/-- LHLD a16: L from a16, then H from a16 + 1 (R128). -/
def execLhld (a16 : Word) (s : State) : Result :=
  let m := memRead16 s a16
  .next (m.2.setPair .hl m.1)

/-- SHLD a16: L to a16, then H to a16 + 1 (R129). -/
def execShld (a16 : Word) (s : State) : Result := .next (memWrite16 s a16 s.hl)

/-- LDAX B or D; the pair is not changed (R130). -/
def execLdax (rp : Pair) (s : State) : Result :=
  let m := memRead s (s.pair rp)
  .next (m.2.setReg .a m.1)

/-- STAX B or D (R131). -/
def execStax (rp : Pair) (s : State) : Result := .next (memWrite s (s.pair rp) s.regs.a)

/-- XCHG (R132). -/
def execXchg (s : State) : Result := .next ((s.setPair .hl s.de).setPair .de s.hl)

/-- LDHI d8 (R133). -/
def execLdhi (d8 : Byte) (s : State) : Result :=
  ifAdmitted s "LDHI" (s.setPair .de (s.hl + zext16 d8))

/-- LDSI d8 (R134). -/
def execLdsi (d8 : Byte) (s : State) : Result :=
  ifAdmitted s "LDSI" (s.setPair .de (s.sp + zext16 d8))

/-- LHLX: L from DE, then H from DE + 1 (R135). -/
def execLhlx (s : State) : Result :=
  let m := memRead16 s s.de
  ifAdmitted s "LHLX" (m.2.setPair .hl m.1)

/-- SHLX: L to DE, then H to DE + 1 (R136). -/
def execShlx (s : State) : Result := ifAdmitted s "SHLX" (memWrite16 s s.de s.hl)

end Sys2Proof.Machine
end

