-- ==== Sys2Proof/Machine/Access.lean ====
section
/-! DEFINITION. The table of data accesses: which bytes each instruction reads and writes on the bus, in which
order (R70). -/

namespace Sys2Proof.Machine

/-- One data access: a byte read or written at an address, or at a port. -/
inductive Access
  | read (a : Word)
  | write (a : Word)
  | portIn (p : Byte)
  | portOut (p : Byte)
deriving DecidableEq, Repr

/-- The accesses of a push: the high byte's first (R140). -/
def pushes (s : State) : List Access := [.write (s.sp - 1), .write (s.sp - 2)]

/-- The accesses of a pop: the low byte's first (R141). -/
def pops (s : State) : List Access := [.read s.sp, .read (s.sp + 1)]

/-- The data accesses of an instruction executed from s, in order (R70). An instruction whose list is empty
makes none. -/
def accesses (i : Instr) (s : State) : List Access :=
  match i with
  | .movRR _ _ => []
  | .movRM _ => [.read s.hl]
  | .movMR _ => [.write s.hl]
  | .hlt => []
  | .mviR _ _ => []
  | .mviM _ => [.write s.hl]
  | .lxi _ _ => []
  | .lda a16 => [.read a16]
  | .sta a16 => [.write a16]
  | .lhld a16 => [.read a16, .read (a16 + 1)]
  | .shld a16 => [.write a16, .write (a16 + 1)]
  | .ldax rp => [.read (s.pair rp)]
  | .stax rp => [.write (s.pair rp)]
  | .xchg => []
  | .ldhi _ => []
  | .ldsi _ => []
  | .lhlx => [.read s.de, .read (s.de + 1)]
  | .shlx => [.write s.de, .write (s.de + 1)]
  | .push _ => pushes s
  | .pushPsw => pushes s
  | .pop _ => pops s
  | .popPsw => pops s
  | .xthl => [.read s.sp, .read (s.sp + 1), .write (s.sp + 1), .write s.sp]
  | .sphl => []
  | .jmp _ => []
  | .jnz _ => []
  | .jz _ => []
  | .jnc _ => []
  | .jc _ => []
  | .jpo _ => []
  | .jpe _ => []
  | .jp _ => []
  | .jm _ => []
  | .pchl => []
  | .call _ => pushes s
  | .cnz _ => if condHolds .nz s.flags then pushes s else []
  | .cz _ => if condHolds .z s.flags then pushes s else []
  | .cnc _ => if condHolds .nc s.flags then pushes s else []
  | .cc _ => if condHolds .c s.flags then pushes s else []
  | .cpo _ => if condHolds .po s.flags then pushes s else []
  | .cpe _ => if condHolds .pe s.flags then pushes s else []
  | .cp _ => if condHolds .p s.flags then pushes s else []
  | .cm _ => if condHolds .m s.flags then pushes s else []
  | .jnk _ => []
  | .jk _ => []
  | .ret => pops s
  | .rnz => if condHolds .nz s.flags then pops s else []
  | .rz => if condHolds .z s.flags then pops s else []
  | .rnc => if condHolds .nc s.flags then pops s else []
  | .rc => if condHolds .c s.flags then pops s else []
  | .rpo => if condHolds .po s.flags then pops s else []
  | .rpe => if condHolds .pe s.flags then pops s else []
  | .rp => if condHolds .p s.flags then pops s else []
  | .rm => if condHolds .m s.flags then pops s else []
  | .rst _ => pushes s
  | .rstv => if s.flags.v then pushes s else []
  | .inPort p8 => [.portIn p8]
  | .outPort p8 => [.portOut p8]
  | .addR _ => []
  | .addM => [.read s.hl]
  | .adi _ => []
  | .adcR _ => []
  | .adcM => [.read s.hl]
  | .aci _ => []
  | .subR _ => []
  | .subM => [.read s.hl]
  | .sui _ => []
  | .sbbR _ => []
  | .sbbM => [.read s.hl]
  | .sbi _ => []
  | .anaR _ => []
  | .anaM => [.read s.hl]
  | .ani _ => []
  | .xraR _ => []
  | .xraM => [.read s.hl]
  | .xri _ => []
  | .oraR _ => []
  | .oraM => [.read s.hl]
  | .ori _ => []
  | .cmpR _ => []
  | .cmpM => [.read s.hl]
  | .cpi _ => []
  | .dad _ => []
  | .dsub => []
  | .rlc => []
  | .rrc => []
  | .ral => []
  | .rar => []
  | .arhl => []
  | .rdel => []
  | .inrR _ => []
  | .inrM => [.read s.hl, .write s.hl]
  | .dcrR _ => []
  | .dcrM => [.read s.hl, .write s.hl]
  | .inx _ => []
  | .dcx _ => []
  | .daa => []
  | .cma => []
  | .stc => []
  | .cmc => []
  | .rim => []
  | .sim => []
  | .nop => []
  | .ei => []
  | .di => []

/-- The address an access stores to. -/
def Access.stored : Access → Option Word
  | .write a => some a
  | .read _ | .portIn _ | .portOut _ => none

/-- The addresses an instruction executed from s stores to, in order (R70). -/
def storesOf (i : Instr) (s : State) : List Word := (accesses i s).filterMap Access.stored

end Sys2Proof.Machine
end

