-- ==== Sys2Proof/Machine/Fetch.lean ====
section
/-! DEFINITION. Fetching one instruction at PC: its bytes in increasing address order, PC past them
(R27, R67, R98), and placing an instruction where it is fetched. -/

namespace Sys2Proof.Machine

/-- Fetch and decode one instruction. All its bytes are read, a not-taken jump's too (R71, entry 18). -/
def fetchInstr (s : State) : Instr × State :=
  let b1 := fetch8 s
  match lengthOf b1.1 with
  | 1 => (decodeBytes b1.1 0 0, b1.2)
  | 2 =>
    let b2 := fetch8 b1.2
    (decodeBytes b1.1 b2.1 0, b2.2)
  | _ =>
    let b2 := fetch8 b1.2
    let b3 := fetch8 b2.2
    (decodeBytes b1.1 b2.1 b3.1, b3.2)

/-- EI_DELAY is cleared before the instruction executes (R311). -/
def State.clearEiDelay (s : State) : State := { s with intr := { s.intr with eiDelay := false } }

/-- Put the bytes of a list into memory from an address on, as a program is loaded (R73; entry 20). -/
def placeBytes (s : State) (a : Word) : List Byte → State
  | [] => s
  | v :: rest => placeBytes (s.poke a v) (a + 1) rest

/-- Put an opcode-table word where the next instruction is fetched: three bytes at PC, the bits above
`nbits` zero; a halted machine fetches nothing, so the halt ends. -/
def placeFetchWord (s : State) (nbits w : Nat) : State :=
  { placeBytes s s.pc (bytesOfTableWord 3 (w % 2 ^ nbits)) with halted := false }

end Sys2Proof.Machine
end

