-- ==== Sys2Proof/Machine/Reset.lean ====
section
/-! DEFINITION. A reset in the middle of a slot (R351, U13). -/

namespace Sys2Proof.Machine

/-- The addresses the slot that starts in s may store to: those of the push of an interrupt entry, or those
of its instruction (R70). -/
def slotStores (s : State) : List Word :=
  match winner s with
  | some _ => (pushes s).filterMap Access.stored
  | none =>
    if s.halted then []
    else
      let f := fetchInstr s.clearEiDelay
      storesOf f.1 f.2

/-- Memory may hold anything at an address the cut instruction could have written, if it is ram (R351). -/
def tearByte (s : State) (a : Word) : State :=
  match s.kindAt a with
  | .ram =>
    let d := drawByte s
    d.2.poke a d.1
  | .rom | .absent | .device => s

/-- The trace of a slot from s to t that was cut short after n of its events. -/
def cutTrace (n : Nat) (s t : State) : List Event :=
  let added := t.env.trace.take (t.env.trace.length - s.env.trace.length)
  added.drop (added.length - n) ++ s.env.trace

/-- The slot from s, which would have ended in t, cut short by reset after n of its events: every ram byte
it could have written is free, and all else is as after any reset (R350, R351). -/
def cutShort (n : Nat) (s t : State) : State :=
  let t1 := { t with env := { t.env with trace := cutTrace n s t } }
  applyReset ((slotStores s).foldl tearByte t1)

end Sys2Proof.Machine
end

