-- ==== Sys2Proof/Machine/Step.lean ====
section
/-! DEFINITION. One instruction slot of the machine (R311). -/

namespace Sys2Proof.Machine

/-- Execute one instruction: clear EI_DELAY, fetch at PC, decode, apply its meaning (R311). -/
def runInstr (s : State) : Result :=
  let f := fetchInstr s.clearEiDelay
  exec f.1 f.2

/-- The slot once reset and hold are out of the way and the edges are latched: an interrupt entry, or
nothing while halted, or one instruction (R311). -/
def slot (s : State) : Result :=
  match winner s with
  | some w => takeWinner w s
  | none => if s.halted then .next s else runInstr s

/-- The slot with a reset in its middle (R351). -/
def slotCut (n : Nat) (s : State) : Result :=
  match slot s with
  | .next t => .next (cutShort n s t)
  | .fault r => .fault r
  | .refused r => .refused r

/-- One step: sample the inputs; reset overrides everything, then a hold, then the interrupts, then the
program, whose slot a reset may cut short (R311, R341, R351). -/
def step (s : State) : Result :=
  let x := nextSample s
  let s0 := s.atSample
  if x.sr then .next (applyReset s0)
  else
    let s1 := latchEdges x s0
    if x.rqm then .next (applyHold x s1)
    else
      match x.cut with
      | none => slot s1
      | some n => slotCut n s1

/-- The state with an instruction of the opcode table stored where the next one is fetched, at PC. From
`State.reset` the very next step runs it. -/
def State.withFetchWord (s : State) (nbits w : Nat) : State := placeFetchWord s nbits w

end Sys2Proof.Machine
end

