-- ==== Sys2Proof/WellFormed.lean ====
section
/-! DEFINITION. Which instructions exist. Every operand but a register pair is bounded by its type; the
pair of LDAX and STAX, and that of PUSH and POP, has fewer values than the field `pp` (R94). -/

namespace Sys2Proof

/-- BC or DE: the pairs LDAX and STAX can name (R130, R131). -/
def Pair.isPointer : Pair → Bool
  | .bc | .de => true
  | .hl | .sp => false

/-- BC, DE or HL: the pairs PUSH and POP can name; SP cannot be pushed or popped (R142, R144). -/
def Pair.isStacked : Pair → Bool
  | .bc | .de | .hl => true
  | .sp => false

/-- The instruction is one of the instruction set (R94, R99). -/
def Instr.wellFormed : Instr → Bool
  | .ldax pair => pair.isPointer
  | .stax pair => pair.isPointer
  | .push pair => pair.isStacked
  | .pop pair => pair.isStacked
  | _ => true

end Sys2Proof
end

