-- ==== Sys2Proof/Safety.lean ====
section
/-! DEFINITION. What claims about the machine speak of: the invariant, the slots that run the program, what
an instruction may store to and write, and what a store does by the kind of its address. -/

namespace Sys2Proof.Machine

/-! ## The invariant -/

/-- Memory in its canonical form; IE set while the EI delay runs (R44, R277); no EI delay in the halt state
(R277: "the delay ends with the HLT"). -/
def State.inv (s : State) : Bool :=
  s.mem.wf && (!s.intr.eiDelay || s.intr.ie) && (!s.halted || !s.intr.eiDelay)

/-- A state the machine can be in, some steps after reset. -/
def Reachable (s : State) : Prop := ∃ k, Sys2Proof.core.run k State.reset = .next s

/-! ## Instruction slots -/

/-- The state in which a slot looks at its interrupts: inputs sampled, edges latched (R304, R311). -/
def State.sampled (s : State) : State := latchEdges (nextSample s) s.atSample

/-- No reset and no hold at the coming sampling point, and no reset inside the slot. -/
def undisturbed (s : State) : Bool :=
  !(nextSample s).sr && !(nextSample s).rqm && (nextSample s).cut.isNone

/-- The coming slot runs an instruction of the program: no reset, no hold, no interrupt taken, not
halted (R311). -/
def runsProgram (s : State) : Bool :=
  undisturbed s && decide (winner s.sampled = none) && !s.halted

/-- Byte `k` of the instruction at PC, as memory holds it. -/
def State.code (s : State) (k : Nat) : Byte := s.peek (s.pc + BitVec.ofNat 16 k)

/-! ## The other master and the bus -/

/-- The addresses the other master will write while it has the bus inside a slot (R340): none where
DMA_PRESENT is false or no hold is to come. -/
def State.dmaAddrs (s : State) : List Word :=
  if s.params.dmaPresent then s.env.holds.flatMap fun h => (h.getD []).map Prod.fst else []

/-- The data access an event shows, if it shows one. -/
def Event.access : Event → Option Access
  | .ioRead p _ => some (.portIn p)
  | .ioWrite p _ => some (.portOut p)
  | .devRead a _ => some (.read a)
  | .devWrite a _ => some (.write a)
  | .intaRead _ | .holdAck | .resetOut => none

/-- An access the environment sees: a port's, or one at a device address (R63, R73). -/
def State.shows (s : State) : Access → Bool
  | .read a | .write a => decide (s.kindAt a = .device)
  | .portIn _ | .portOut _ => true

/-- The processor takes a byte from the bus. -/
def Access.isRead : Access → Bool
  | .read _ | .portIn _ => true
  | .write _ | .portOut _ => false

/-- Between s and t the processor made these data accesses on the bus, in this order, and no other: the
events that are no hold acknowledge show just those the environment sees, it has answered just the reads
among them, and one machine-cycle boundary has passed for each access of any kind (R70, R71). -/
def Transfers (s t : State) (as : List Access) : Prop :=
  t.params = s.params ∧
    (∃ evs, t.env.trace = evs ++ s.env.trace ∧
      (∀ e ∈ evs, e = .holdAck ∨ e.access.isSome = true) ∧
      evs.reverse.filterMap Event.access = as.filter s.shows) ∧
    t.env.busIn = s.env.busIn.drop ((as.filter s.shows).countP Access.isRead) ∧
    t.env.holds = if s.params.dmaPresent then s.env.holds.drop as.length else s.env.holds

/-! ## What an instruction may write -/

/-- The two 8-bit registers of a pair; SP has none (R23). -/
def pairRegs : Pair → List Reg
  | .bc => [.b, .c]
  | .de => [.d, .e]
  | .hl => [.h, .l]
  | .sp => []

/-- The pair is SP (R24). -/
def isSp : Pair → Bool
  | .sp => true
  | .bc | .de | .hl => false

/-- The seven flags by name (R30). -/
inductive FlagName
  | s | z | k | ac | p | v | cy
deriving DecidableEq, Repr

/-- The flag of a name. -/
def Flags.get (f : Flags) : FlagName → Bool
  | .s => f.s
  | .z => f.z
  | .k => f.k
  | .ac => f.ac
  | .p => f.p
  | .v => f.v
  | .cy => f.cy

/-- Every flag. -/
def allFlags : List FlagName := [.s, .z, .k, .ac, .p, .v, .cy]

/-- What an instruction may write, memory apart, for which `storesOf` stands (R70). -/
structure Footprint where
  /-- 8-bit registers: the column "written by" of R25 -/
  regs : List Reg := []
  /-- SP (R24, R25) -/
  sp : Bool := false
  /-- PC, beyond its advance over the instruction's bytes (R25) -/
  pc : Bool := false
  /-- the flags whose cell in R37's table says more than "unchanged" -/
  flags : List FlagName := []
  /-- the instruction has a row in R37's table -/
  flagRow : Bool := !flags.isEmpty
  /-- it is one of the ten instructions that run only where EXT10 is `admitted` (R101) -/
  ext10 : Bool := false
deriving DecidableEq, Repr

/-- What each instruction may write (R25, R37), and whether it is one of the ten (R101). -/
def footprint (i : Instr) : Footprint :=
  match i with
  | .movRR dst _ => { regs := [dst] }
  | .movRM dst => { regs := [dst] }
  | .movMR _ => {}
  | .hlt => {}
  | .mviR dst _ => { regs := [dst] }
  | .mviM _ => {}
  | .lxi rp _ => { regs := pairRegs rp, sp := isSp rp }
  | .lda _ => { regs := [.a] }
  | .sta _ => {}
  | .lhld _ => { regs := [.h, .l] }
  | .shld _ => {}
  | .ldax _ => { regs := [.a] }
  | .stax _ => {}
  | .xchg => { regs := [.d, .e, .h, .l] }
  | .ldhi _ => { regs := [.d, .e], ext10 := true }
  | .ldsi _ => { regs := [.d, .e], ext10 := true }
  | .lhlx => { regs := [.h, .l], ext10 := true }
  | .shlx => { ext10 := true }
  | .push _ => { sp := true }
  | .pushPsw => { sp := true }
  | .pop rp => { regs := pairRegs rp, sp := true }
  | .popPsw => { regs := [.a], sp := true, flags := allFlags }
  | .xthl => { regs := [.h, .l] }
  | .sphl => { sp := true }
  | .jmp _ => { pc := true }
  | .jnz _ => { pc := true }
  | .jz _ => { pc := true }
  | .jnc _ => { pc := true }
  | .jc _ => { pc := true }
  | .jpo _ => { pc := true }
  | .jpe _ => { pc := true }
  | .jp _ => { pc := true }
  | .jm _ => { pc := true }
  | .pchl => { pc := true }
  | .call _ => { sp := true, pc := true }
  | .cnz _ => { sp := true, pc := true }
  | .cz _ => { sp := true, pc := true }
  | .cnc _ => { sp := true, pc := true }
  | .cc _ => { sp := true, pc := true }
  | .cpo _ => { sp := true, pc := true }
  | .cpe _ => { sp := true, pc := true }
  | .cp _ => { sp := true, pc := true }
  | .cm _ => { sp := true, pc := true }
  | .jnk _ => { pc := true, ext10 := true }
  | .jk _ => { pc := true, ext10 := true }
  | .ret => { sp := true, pc := true }
  | .rnz => { sp := true, pc := true }
  | .rz => { sp := true, pc := true }
  | .rnc => { sp := true, pc := true }
  | .rc => { sp := true, pc := true }
  | .rpo => { sp := true, pc := true }
  | .rpe => { sp := true, pc := true }
  | .rp => { sp := true, pc := true }
  | .rm => { sp := true, pc := true }
  | .rst _ => { sp := true, pc := true }
  | .rstv => { sp := true, pc := true, ext10 := true }
  | .inPort _ => { regs := [.a] }
  | .outPort _ => {}
  | .addR _ => { regs := [.a], flags := allFlags }
  | .addM => { regs := [.a], flags := allFlags }
  | .adi _ => { regs := [.a], flags := allFlags }
  | .adcR _ => { regs := [.a], flags := allFlags }
  | .adcM => { regs := [.a], flags := allFlags }
  | .aci _ => { regs := [.a], flags := allFlags }
  | .subR _ => { regs := [.a], flags := allFlags }
  | .subM => { regs := [.a], flags := allFlags }
  | .sui _ => { regs := [.a], flags := allFlags }
  | .sbbR _ => { regs := [.a], flags := allFlags }
  | .sbbM => { regs := [.a], flags := allFlags }
  | .sbi _ => { regs := [.a], flags := allFlags }
  | .anaR _ => { regs := [.a], flags := allFlags }
  | .anaM => { regs := [.a], flags := allFlags }
  | .ani _ => { regs := [.a], flags := allFlags }
  | .xraR _ => { regs := [.a], flags := allFlags }
  | .xraM => { regs := [.a], flags := allFlags }
  | .xri _ => { regs := [.a], flags := allFlags }
  | .oraR _ => { regs := [.a], flags := allFlags }
  | .oraM => { regs := [.a], flags := allFlags }
  | .ori _ => { regs := [.a], flags := allFlags }
  | .cmpR _ => { flags := allFlags }
  | .cmpM => { flags := allFlags }
  | .cpi _ => { flags := allFlags }
  | .dad _ => { regs := [.h, .l], flags := [.cy, .v] }
  | .dsub => { regs := [.h, .l], flags := allFlags, ext10 := true }
  | .rlc => { regs := [.a], flags := [.cy] }
  | .rrc => { regs := [.a], flags := [.cy] }
  | .ral => { regs := [.a], flags := [.cy] }
  | .rar => { regs := [.a], flags := [.cy] }
  | .arhl => { regs := [.h, .l], flags := [.cy], ext10 := true }
  | .rdel => { regs := [.d, .e], flags := [.cy, .v], ext10 := true }
  | .inrR dst => { regs := [dst], flags := [.s, .z, .p, .ac, .v, .k] }
  | .inrM => { flags := [.s, .z, .p, .ac, .v, .k] }
  | .dcrR dst => { regs := [dst], flags := [.s, .z, .p, .ac, .v, .k] }
  | .dcrM => { flags := [.s, .z, .p, .ac, .v, .k] }
  | .inx rp => { regs := pairRegs rp, sp := isSp rp, flags := [.k] }
  | .dcx rp => { regs := pairRegs rp, sp := isSp rp, flags := [.k] }
  | .daa => { regs := [.a], flags := allFlags }
  | .cma => { regs := [.a], flagRow := true }
  | .stc => { flags := [.cy] }
  | .cmc => { flags := [.cy] }
  | .rim => { regs := [.a] }
  | .sim => {}
  | .nop => {}
  | .ei => {}
  | .di => {}

/-- The flags an instruction may write in a state: the table's, and V and K in every row of the table when
VK_EXACT is false (R37, R39). -/
def mayWriteFlags (i : Instr) (s : State) : List FlagName :=
  (footprint i).flags ++ if (footprint i).flagRow && !s.params.vkExact then [.v, .k] else []

/-- What executing `i` from s leaves alone in t: registers and SP outside the column "written by" of R25;
PC, but for the instructions that move it; flags outside R37's table; the interrupt state, HALTED and TFD
outside EI, DI, SIM, RIM and HLT (R40 to R48, R334); the inputs and the parameters; every byte of memory
outside the addresses stored to (R70) and those the other master writes meanwhile (R340). -/
def Frame (i : Instr) (s t : State) : Prop :=
  (∀ q, q ∉ (footprint i).regs → t.reg q = s.reg q) ∧
  ((footprint i).sp = false → t.sp = s.sp) ∧
  ((footprint i).pc = false → t.pc = s.pc) ∧
  (∀ f, f ∉ mayWriteFlags i s → t.flags.get f = s.flags.get f) ∧
  (i ≠ .ei → i ≠ .di → t.intr.ie = s.intr.ie) ∧
  (i ≠ .ei → t.intr.eiDelay = s.intr.eiDelay) ∧
  (i ≠ .sim → t.intr.m55 = s.intr.m55 ∧ t.intr.m65 = s.intr.m65 ∧ t.intr.m75 = s.intr.m75 ∧
    t.intr.r75 = s.intr.r75 ∧ t.tfd = s.tfd) ∧
  (i ≠ .rim → t.intr.trapRimPending = s.intr.trapRimPending) ∧
  t.intr.trapFF = s.intr.trapFF ∧ t.intr.ieBeforeTrap = s.intr.ieBeforeTrap ∧
  (i ≠ .hlt → t.halted = s.halted) ∧
  t.env.pins = s.env.pins ∧ t.env.samples = s.env.samples ∧ t.params = s.params ∧
  (∀ a, a ∉ storesOf i s → a ∉ s.dmaAddrs → t.peek a = s.peek a)

/-- Executing `i` from s answers a next state, in which P holds and everything the frame names is left
alone. -/
def Completes (i : Instr) (s : State) (P : State → Prop) : Prop :=
  ∃ t, exec i s = .next t ∧ Frame i s t ∧ P t

/-- One of the ten instructions the source does not name: where EXT10 is `admitted` it completes with P, and
where it is `refused` it is refused by its name (R101). -/
def CompletesIfAdmitted (i : Instr) (mnemonic : String) (s : State) (P : State → Prop) : Prop :=
  (s.params.ext10 = true → Completes i s P) ∧
    (s.params.ext10 = false → exec i s = .refused (.ext10 mnemonic))

/-- These bytes, whatever follows them, decode to this instruction. -/
def Encodes (bytes : List Byte) (i : Instr) : Prop :=
  ∀ rest, decode (bytes ++ rest) = .ok (i, rest)

/-- The three bytes of an instruction with a 16-bit operand, low byte first, decode to it (R96). -/
def Encodes3 (op : Byte) (mk : Word → Instr) : Prop :=
  ∀ lo hi, Encodes [op, lo, hi] (mk (mkWord hi lo))

/-! ## Stores and pushes -/

/-- From s to t the byte v was stored at a: ram holds it; rom and absent addresses drop it; a device
address hands it to the environment and memory keeps its byte (R73). -/
def Stored (s t : State) (a : Word) (v : Byte) : Prop :=
  match s.kindAt a with
  | .ram => t.peek a = v
  | .rom | .absent => t.peek a = s.peek a
  | .device => t.peek a = s.peek a ∧ .devWrite a v ∈ t.env.trace

/-- From s to t the value v was pushed: high byte to sp - 1, where the other master does not write before the
low byte is stored, low byte to sp - 2, no other byte of memory changed but by the other master, sp lower by
two (R140). -/
def Pushed (s t : State) (v : Word) : Prop :=
  t.sp = s.sp - 2 ∧ (s.sp - 1 ∉ s.dmaAddrs → Stored s t (s.sp - 1) (hiByte v)) ∧
    Stored s t (s.sp - 2) (loByte v) ∧
    ∀ a, a ≠ s.sp - 1 → a ≠ s.sp - 2 → a ∉ s.dmaAddrs → t.peek a = s.peek a

/-- An address whose reads return what memory holds and cause nothing: ram or rom (R71, R73). -/
abbrev State.plain (s : State) (a : Word) : Prop := s.kindAt a = .ram ∨ s.kindAt a = .rom

/-! ## Results and flags, in plain arithmetic -/

/-- How many bits of a byte are 1. -/
def onesIn (v : Byte) : Nat := (List.range 8).countP fun i => v.getLsbD i

/-- S, Z and P are those of a result (R32). -/
def SzpOf (f : Flags) (res : Byte) : Prop :=
  (f.s = true ↔ 128 ≤ res.toNat) ∧ (f.z = true ↔ res.toNat = 0) ∧
    (f.p = true ↔ onesIn res % 2 = 0)

/-- Without VK_EXACT, V and K are the last two free values drawn (R39). -/
def VkFree (s t : State) : Prop :=
  s.params.vkExact = false →
    t.flags.v = Config.freeBit (t.env.fresh - 2) ∧ t.flags.k = Config.freeBit (t.env.fresh - 1)

/-- With VK_EXACT, V says that the exact signed result does not fit eight bits and K that it is negative
(R35, R36); without it both are free (R39). -/
def VkOf (s t : State) (exact : Int) : Prop :=
  (s.params.vkExact = true →
    (t.flags.v = true ↔ exact < -128 ∨ 127 < exact) ∧ (t.flags.k = true ↔ exact < 0)) ∧
    VkFree s t

/-- The flags of the 8-bit sum x + y + cin with result res, CY apart (R34, R37). -/
def SumFlags (s t : State) (x y : Byte) (cin : Bool) (res : Byte) : Prop :=
  SzpOf t.flags res ∧
    (t.flags.ac = true ↔ 16 ≤ x.toNat % 16 + y.toNat % 16 + cin.toNat) ∧
    VkOf s t (x.toInt + y.toInt + cin.toNat)

/-- The flags of the 8-bit difference x - y - bin with result res, CY apart; AC = 1 means no borrow from
bit 4 (R34, R37, R211). -/
def DiffFlags (s t : State) (x y : Byte) (bin : Bool) (res : Byte) : Prop :=
  SzpOf t.flags res ∧
    (t.flags.ac = true ↔ y.toNat % 16 + bin.toNat ≤ x.toNat % 16) ∧
    VkOf s t (x.toInt - y.toInt - bin.toNat)

/-- The flags an instruction writes from the outputs of `add8` or `sub8`, with the CY its own rule gives:
S, Z, P of the result, AC and, with VK_EXACT, V and K = V xor S (R210, R211). -/
def FlagsFrom (s : State) (o : AluOut) (cy : Bool) : Prop :=
  let f := (s.arithFlags o cy).flags
  f.s = o.res.getLsbD 7 ∧ f.z = decide (o.res = 0) ∧ f.p = parity o.res ∧ f.ac = o.ac ∧ f.cy = cy ∧
    (s.params.vkExact = true → f.v = o.v ∧ f.k = (o.v ^^ o.res.getLsbD 7))

/-- `i` adds y and cin to A (R213 to R218). -/
def AddsToA (i : Instr) (s : State) (y : Byte) (cin : Bool) : Prop :=
  Completes i s fun t =>
    t.regs.a.toNat = (s.regs.a.toNat + y.toNat + cin.toNat) % 256 ∧
      (t.flags.cy = true ↔ 256 ≤ s.regs.a.toNat + y.toNat + cin.toNat) ∧
      SumFlags s t s.regs.a y cin t.regs.a

/-- `i` subtracts y and bin from A (R219 to R224). -/
def SubtractsFromA (i : Instr) (s : State) (y : Byte) (bin : Bool) : Prop :=
  Completes i s fun t =>
    (t.regs.a.toNat : Int) = ((s.regs.a.toNat : Int) - y.toNat - bin.toNat) % 256 ∧
      (t.flags.cy = true ↔ s.regs.a.toNat < y.toNat + bin.toNat) ∧
      DiffFlags s t s.regs.a y bin t.regs.a

/-- `i` sets the flags of A - y and leaves A (R234 to R236). -/
def ComparesA (i : Instr) (s : State) (y : Byte) : Prop :=
  Completes i s fun t =>
    t.regs.a = s.regs.a ∧ (t.flags.cy = true ↔ s.regs.a.toNat < y.toNat) ∧
      DiffFlags s t s.regs.a y false (s.regs.a - y)

/-- `i` puts a bitwise result into A: CY = 0, AC as ANA_AC says after an AND and 0 after the others, V = 0
and K = S with VK_EXACT (R212). -/
def LogicOnA (i : Instr) (s : State) (res : Byte) (isAnd : Bool) : Prop :=
  Completes i s fun t =>
    t.regs.a = res ∧ SzpOf t.flags res ∧ t.flags.cy = false ∧
      (isAnd = false → t.flags.ac = false) ∧
      (isAnd = true → s.params.anaAc = .one → t.flags.ac = true) ∧
      (isAnd = true → s.params.anaAc = .zero → t.flags.ac = false) ∧
      (isAnd = true → s.params.anaAc = .draw →
        ∃ n, s.env.fresh ≤ n ∧ n < t.env.fresh ∧ t.flags.ac = Config.freeBit n) ∧
      (s.params.vkExact = true → t.flags.v = false ∧ t.flags.k = t.flags.s) ∧ VkFree s t

/-! ## Control flow -/

/-- The three-byte jump `mk`, with first byte `op`, goes to its target when the test holds and to the next
instruction otherwise. -/
def JumpsWhen (op : Byte) (mk : Word → Instr) (test : State → Bool) : Prop :=
  Encodes3 op mk ∧
    ∀ a s, Completes (mk a) s fun t => t.pc = if test s then a else s.pc

/-- The three-byte call `mk` pushes the address of the next instruction and goes to its target when the
test holds, and does nothing otherwise. -/
def CallsWhen (op : Byte) (mk : Word → Instr) (test : State → Bool) : Prop :=
  Encodes3 op mk ∧
    ∀ a s, Completes (mk a) s fun t =>
      (test s = true → Pushed s t s.pc ∧ t.pc = a) ∧
        (test s = false → t = s)

/-- The one-byte return `i` pops PC when the test holds and does nothing otherwise, on the bus either. The
popped value is what two bus reads answer, low byte first (R141); on plain memory, where the other master does
not write, it is what memory holds at sp and sp + 1. -/
def ReturnsWhen (op : Byte) (i : Instr) (test : State → Bool) : Prop :=
  Encodes [op] i ∧
    ∀ s, Completes i s fun t =>
      (test s = true →
        t.sp = s.sp + 2 ∧ t.pc = (memRead16 s s.sp).1 ∧
          (s.plain s.sp → s.plain (s.sp + 1) → s.sp ∉ s.dmaAddrs → s.sp + 1 ∉ s.dmaAddrs →
            t.pc = mkWord (s.peek (s.sp + 1)) (s.peek s.sp))) ∧
        (test s = false → t = s)

/-- An entry taken from s ends in t: the halt, IE and EI_DELAY are over, PC is pushed, execution goes on at
the vector, and registers, flags, masks and TFD keep their values (R320). -/
def EntersAt (s t : State) (vector : Word) : Prop :=
  t.halted = false ∧ t.intr.ie = false ∧ t.intr.eiDelay = false ∧ Pushed s t s.pc ∧ t.pc = vector ∧
    t.regs = s.regs ∧ t.flags = s.flags ∧ t.tfd = s.tfd ∧
    t.intr.m55 = s.intr.m55 ∧ t.intr.m65 = s.intr.m65 ∧ t.intr.m75 = s.intr.m75

/-! ## Packed decimal -/

/-- Two decimal digits in a byte. -/
def isPackedDecimal (v : Byte) : Bool := decide (v.toNat % 16 ≤ 9) && decide (v.toNat / 16 ≤ 9)

/-- The number two packed decimal digits stand for. -/
def packedDecimal (v : Byte) : Nat := v.toNat / 16 * 10 + v.toNat % 16

end Sys2Proof.Machine
end

