-- ==== Sys2Proof/Certificates/Slice0/Obligations.lean ====
section
/-! DEFINITION. The statements for the provers. Each docstring names the rules of spec/ it rests on. -/

open Sys2Proof Sys2Proof.Machine

/-! ## Encoding -/

/-- Decoding an encoded well-formed instruction gives it back, with every operand, whatever bytes follow
(30_encoding.md sections 1 and 2). -/
def Obligations.DecodeInvertsEncode : Prop :=
  ∀ (i : Instr) (rest : List Byte), i.wellFormed = true → decode (encode i ++ rest) = .ok (i, rest)

/-- Every three bytes decode to a well-formed instruction whose encoding is their beginning: each first
byte has one meaning, and no operand bit is dropped (30_encoding.md section 4). -/
def Obligations.EncodeInvertsDecode : Prop :=
  ∀ b1 b2 b3 : Byte, (decodeBytes b1 b2 b3).wellFormed = true ∧
    encode (decodeBytes b1 b2 b3) = [b1, b2, b3].take (lengthOf b1)

/-- The length a first byte fixes, opcode by opcode (R97). -/
def Obligations.FirstByteFixesLength : Prop :=
  ∀ b : Byte, lengthOf b =
    if b ∈ [0x01#8, 0x11, 0x21, 0x31, 0x22, 0x2A, 0x32, 0x3A, 0xC2, 0xCA, 0xD2, 0xDA, 0xE2, 0xEA,
      0xF2, 0xFA, 0xC3, 0xC4, 0xCC, 0xD4, 0xDC, 0xE4, 0xEC, 0xF4, 0xFC, 0xCD, 0xDD, 0xFD] then 3
    else if b ∈ [0x06#8, 0x0E, 0x16, 0x1E, 0x26, 0x2E, 0x36, 0x3E, 0x28, 0x38, 0xC6, 0xCE, 0xD6,
      0xDE, 0xE6, 0xEE, 0xF6, 0xFE, 0xD3, 0xDB] then 2
    else 1

/-- A few words of the spec's tables and examples decode to the instructions they stand for
(30_encoding.md section 3, 95_test_vectors.md section 2). -/
def Obligations.SpecWordsDecode : Prop :=
  decode [0x78] = .ok (.movRR .a .b, []) ∧ decode [0x76] = .ok (.hlt, []) ∧
    decode [0x21, 0x34, 0x12] = .ok (.lxi .hl 0x1234, []) ∧
    decode [0x12] = .ok (.stax .de, []) ∧ decode [0xF5] = .ok (.pushPsw, []) ∧
    decode [0xCD, 0x00, 0x30] = .ok (.call 0x3000, []) ∧ decode [0xEF] = .ok (.rst 5, []) ∧
    decode [0xDB, 0x10] = .ok (.inPort 0x10, []) ∧ decode [0x89] = .ok (.adcR .c, []) ∧
    decode [0x08] = .ok (.dsub, []) ∧ decode [0x1F] = .ok (.rar, []) ∧
    decode [0x34] = .ok (.inrM, []) ∧ decode [0x20] = .ok (.rim, []) ∧
    decode [0xFB] = .ok (.ei, [])

/-! ## The step -/

/-- A slot with no reset, hold or interrupt, and not halted, runs one instruction: the one fetched at PC,
from the state in which the inputs are sampled and EI_DELAY is cleared. Where the bytes at PC stand in
plain memory, the other master does not write them meanwhile, and they decode to `i`, that is `exec i`, with
PC past the instruction's bytes; with no hold to come nothing else is changed by the fetch
(60_exceptions.md section 2, 10_state.md section 2). -/
def Obligations.StepRunsDecodedInstruction : Prop :=
  ∀ s : State, runsProgram s = true →
    step s = exec (fetchInstr s.sampled.clearEiDelay).1 (fetchInstr s.sampled.clearEiDelay).2 ∧
      ∀ i rest, decode [s.code 0, s.code 1, s.code 2] = .ok (i, rest) →
        (∀ k, k < lengthOf (s.code 0) → s.plain (s.pc + BitVec.ofNat 16 k) ∧
          s.pc + BitVec.ofNat 16 k ∉ s.dmaAddrs) →
        step s = exec i (fetchInstr s.sampled.clearEiDelay).2 ∧
          (fetchInstr s.sampled.clearEiDelay).2.pc = s.pc + BitVec.ofNat 16 (lengthOf (s.code 0)) ∧
          (s.params.dmaPresent = false ∨ s.env.holds = [] →
            step s = exec i { s.sampled.clearEiDelay with
              pc := s.pc + BitVec.ofNat 16 (lengthOf (s.code 0)) })

/-- Every instruction completes in every state, the ten that the source does not name wherever EXT10 is
`admitted` (as it is after reset by the model's choice, log entry 1), and leaves alone what it does not write:
there is no synchronous exception (60_exceptions.md section 1, 00_scope.md section 5, 10_state.md sections 1
and 3). -/
def Obligations.EveryInstructionCompletesInItsFrame : Prop :=
  ∀ (i : Instr) (s : State), ((footprint i).ext10 = true → s.params.ext10 = true) →
    ∃ t, exec i s = .next t ∧ Frame i s t

/-- Two things stop the machine: an interrupting device that supplies, at the acknowledge of interrupt 1, a
first byte the parameter INTA_FORMS does not admit (60_exceptions.md section 3), and, where EXT10 is `refused`,
one of the ten instructions that the source does not name (30_encoding.md section 3; after reset EXT10 is
`admitted` by the model's choice, log entry 1). A halt that nothing ends is no stop but a run of idle slots,
the model's choice too (log entry 23). -/
def Obligations.OnlyIntaFormsAndExt10Refuse : Prop :=
  ∀ s : State, (∃ t, step s = .next t) ∨
    (nextSample s).sr = false ∧ (nextSample s).rqm = false ∧
      ((∃ b, step s = .refused (.intaByte b) ∧ winner s.sampled = some .intr ∧
          ((∃ n, decodeBytes b 0 0 = .rst n) → s.params.intaRst = false) ∧
          ((∃ a, decodeBytes b 0 0 = .call a) → s.params.intaCall = false)) ∨
        ∃ m, step s = .refused (.ext10 m) ∧ s.params.ext10 = false ∧ winner s.sampled = none ∧
          s.halted = false ∧ (footprint (fetchInstr s.sampled.clearEiDelay).1).ext10 = true)

/-- What every step keeps: memory's canonical form, IE set while the EI delay runs, no EI delay in the halt
state (10_state.md section 4, 49_control.md). -/
def Obligations.StepKeepsInvariant : Prop :=
  ∀ s t : State, s.inv = true → step s = .next t → t.inv = true

/-- The state after reset has the invariant. -/
def Obligations.ResetHasInvariant : Prop := State.reset.inv = true

/-- No step changes a byte at an address that is not ram, and none changes the parameters: a rom byte stays
fixed whatever the program and the other master write (20_memory.md section 4). -/
def Obligations.StepKeepsNonRamBytes : Prop :=
  ∀ s t : State, step s = .next t →
    t.params = s.params ∧ ∀ a, s.kindAt a ≠ .ram → t.peek a = s.peek a

/-- What goes over the bus: an instruction's own bytes in increasing address order, then its data accesses as
the table of R70 lists them, in its order, and no other; the common interrupt entry pushes PC and accesses
nothing else (that a not-taken jump or call reads its third byte too is the model's choice, log entry 18). With all memory ram only IN and OUT show on the bus of the I/O space: every other instruction leaves the
environment's answers alone and no event but hold acknowledges (20_memory.md sections 1 and 3). -/
def Obligations.DataAccessesFollowTheirTable : Prop :=
  (∀ s : State, Transfers s (fetchInstr s).2
    ((List.range (encode (fetchInstr s).1).length).map fun k => .read (s.pc + BitVec.ofNat 16 k))) ∧
  (∀ (s : State) (vector : Word), Transfers s (takeInterrupt vector s) (pushes s)) ∧
  ∀ (i : Instr) (s t : State), exec i s = .next t → Transfers s t (accesses i s) ∧
    (s.params.memMap = [] → (∀ p, i ≠ .inPort p) → (∀ p, i ≠ .outPort p) →
      t.env.busIn = s.env.busIn ∧
        ∃ evs, t.env.trace = evs ++ s.env.trace ∧ ∀ e ∈ evs, e = .holdAck)

/-! ## Reset and hold -/

/-- The state after reset: the values the spec gives (R53). -/
def Obligations.ResetStateHasSpecValues : Prop :=
  State.reset.pc = 0x0000 ∧ State.reset.intr.ie = false ∧ State.reset.intr.m55 = true ∧
    State.reset.intr.m65 = true ∧ State.reset.intr.m75 = true ∧ State.reset.intr.r75 = false ∧
    State.reset.intr.trapFF = false ∧ State.reset.intr.eiDelay = false ∧
    State.reset.halted = false ∧ State.reset.tfd = false ∧
    State.reset.intr.trapRimPending = false ∧ State.reset.intr.ieBeforeTrap = false

/-- Reset at a sampling point overrides everything: the control state takes its reset values, nothing is
pushed, memory is unchanged, the reset output is active (R350). -/
def Obligations.ResetInputActsFirst : Prop :=
  ∀ s : State, (nextSample s).sr = true → ∃ t, step s = .next t ∧
    t.pc = 0x0000 ∧ t.intr.ie = false ∧ t.intr.m75 = true ∧ t.intr.m65 = true ∧
    t.intr.m55 = true ∧ t.intr.r75 = false ∧ t.intr.trapFF = false ∧ t.intr.eiDelay = false ∧
    t.halted = false ∧ t.tfd = false ∧ t.intr.trapRimPending = false ∧ t.intr.ieBeforeTrap = false ∧
    t.mem = s.mem ∧
    t.env.trace = .resetOut :: s.env.trace

/-- Reset inside a slot, after n of its bus events: the control state takes its reset values, whatever the slot
did; a ram byte the cut instruction or entry could have written holds a free value, and no other byte changes
but by the other master; no more than n events of the slot happened (R351; that the registers, flags and SP are
free too is R54's, and that the environment's script counts the events is the model's choice, log
entry 15). -/
def Obligations.ResetInsideASlotTearsItsStores : Prop :=
  ∀ (s u : State) (n : Nat), (nextSample s).sr = false → (nextSample s).rqm = false →
    (nextSample s).cut = some n → slot s.sampled = .next u → ∃ t, step s = .next t ∧
      t.pc = 0x0000 ∧ t.intr = State.reset.intr ∧ t.halted = false ∧ t.tfd = false ∧
      (∀ a, a ∈ slotStores s.sampled → s.kindAt a = .ram →
        ∃ k, k < t.env.fresh ∧ t.peek a = Config.freeByte k) ∧
      (∀ a, a ∉ slotStores s.sampled → a ∉ s.dmaAddrs → t.peek a = s.peek a) ∧
      (∀ a, s.kindAt a ≠ .ram → t.peek a = s.peek a) ∧
      (∃ evs, t.env.trace = .resetOut :: (evs ++ s.env.trace) ∧ evs.length ≤ n) ∧
      (winner s.sampled ≠ none → slotStores s.sampled = [s.sp - 1, s.sp - 2]) ∧
      (winner s.sampled = none → s.halted = true → slotStores s.sampled = []) ∧
      (winner s.sampled = none → s.halted = false →
        slotStores s.sampled = storesOf (fetchInstr s.sampled.clearEiDelay).1
          (fetchInstr s.sampled.clearEiDelay).2)

/-- A hold at a sampling point is a slot of its own, which latches the edges and keeps EI_DELAY and every
request (the model's reading, log entries 16 and 22); it changes no processor state beside the latches. Memory
changes only in ram bytes the other master writes, and not at all without DMA_PRESENT (60_exceptions.md
sections 2 and 5). -/
def Obligations.HoldChangesNoProcessorState : Prop :=
  ∀ s : State, (nextSample s).sr = false → (nextSample s).rqm = true → ∃ t, step s = .next t ∧
    t.regs = s.regs ∧ t.flags = s.flags ∧ t.sp = s.sp ∧ t.pc = s.pc ∧ t.intr = s.sampled.intr ∧
    t.halted = s.halted ∧ t.tfd = s.tfd ∧ t.env.trace = .holdAck :: s.env.trace ∧
    (∀ a, s.params.dmaPresent = false ∨ (∀ v, (a, v) ∉ (nextSample s).dmaWrites) ∨ s.kindAt a ≠ .ram →
      t.peek a = s.peek a) ∧
    ∀ earlier a v, s.params.dmaPresent = true → (nextSample s).dmaWrites = earlier ++ [(a, v)] →
      s.kindAt a = .ram → t.peek a = v

/-- A hold may also fall at a machine-cycle boundary inside a slot, where DMA_PRESENT is true and only there. It
changes no processor state, and memory only in ram bytes the other master writes. So a two-byte access is not
atomic: a read can take its second byte from after the hold, the first byte of a write can be overwritten
before the second is stored; and INR M loses what the other master writes between its read and its write (that
a script in State says what falls at which boundary is the model's form of R340, log entry 16; 20_memory.md sections 2 and 5, 60_exceptions.md section 5). -/
def Obligations.HoldFallsBetweenTransfers : Prop :=
  ∀ s : State,
    (s.params.dmaPresent = false ∨ s.env.holds = [] → s.atCycle = s) ∧
    (s.params.dmaPresent = true → ∀ rest,
      (s.env.holds = none :: rest →
        s.atCycle = { s with env := { s.env with holds := rest } }) ∧
      (∀ ws, s.env.holds = some ws :: rest →
        s.atCycle.regs = s.regs ∧ s.atCycle.flags = s.flags ∧ s.atCycle.sp = s.sp ∧
        s.atCycle.pc = s.pc ∧ s.atCycle.intr = s.intr ∧ s.atCycle.halted = s.halted ∧
        s.atCycle.tfd = s.tfd ∧ s.atCycle.env.trace = .holdAck :: s.env.trace ∧
        s.atCycle.env.holds = rest ∧
        (∀ a, (∀ v, (a, v) ∉ ws) ∨ s.kindAt a ≠ .ram → s.atCycle.peek a = s.peek a) ∧
        ∀ earlier a v, ws = earlier ++ [(a, v)] → s.kindAt a = .ram → s.atCycle.peek a = v) ∧
      (∀ (a v : Word) (w : Byte), s.kindAt a = .ram → s.kindAt (a + 1) = .ram →
        (s.env.holds = none :: some [(a + 1, w)] :: rest →
          (memRead16 s a).1 = mkWord w (s.peek a)) ∧
        (s.env.holds = none :: some [(a, w)] :: rest →
          (memWrite16 s a v).peek a = w ∧ (memWrite16 s a v).peek (a + 1) = hiByte v)) ∧
      ∀ w, s.kindAt s.hl = .ram → s.env.holds = none :: some [(s.hl, w)] :: rest →
        ∃ t, exec .inrM s = .next t ∧ t.peek s.hl = s.peek s.hl + 1)

/-! ## Interrupts -/

/-- The pending conditions (R305); exactly one pending interrupt is taken, the first in the order TRAP,
RST 7.5, RST 6.5, RST 5.5, INTR, none when none is pending; the requests of the others stay (R306). -/
def Obligations.HighestPriorityWins : Prop :=
  ∀ s : State,
    (pendTrap s = true ↔ s.intr.trapFF = true ∧ s.env.pins.pin6 = true) ∧
    (pend75 s = true ↔
      (s.intr.ie = true ∧ s.intr.eiDelay = false) ∧ s.intr.r75 = true ∧ s.intr.m75 = false) ∧
    (pend65 s = true ↔
      (s.intr.ie = true ∧ s.intr.eiDelay = false) ∧ s.env.pins.pin8 = true ∧ s.intr.m65 = false) ∧
    (pend55 s = true ↔
      (s.intr.ie = true ∧ s.intr.eiDelay = false) ∧ s.env.pins.pin9 = true ∧ s.intr.m55 = false) ∧
    (pendIntr s = true ↔
      (s.intr.ie = true ∧ s.intr.eiDelay = false) ∧ s.env.pins.pin10 = true) ∧
    (winner s = some .trap ↔ pendTrap s = true) ∧
    (winner s = some .rst75 ↔ pendTrap s = false ∧ pend75 s = true) ∧
    (winner s = some .rst65 ↔ pendTrap s = false ∧ pend75 s = false ∧ pend65 s = true) ∧
    (winner s = some .rst55 ↔
      pendTrap s = false ∧ pend75 s = false ∧ pend65 s = false ∧ pend55 s = true) ∧
    (winner s = some .intr ↔
      pendTrap s = false ∧ pend75 s = false ∧ pend65 s = false ∧ pend55 s = false ∧
        pendIntr s = true) ∧
    (winner s = none ↔
      pendTrap s = false ∧ pend75 s = false ∧ pend65 s = false ∧ pend55 s = false ∧
        pendIntr s = false) ∧
    ∀ w t, winner s = some w → takeWinner w s = .next t →
      (w ≠ .trap → t.intr.trapFF = s.intr.trapFF) ∧ (w ≠ .rst75 → t.intr.r75 = s.intr.r75) ∧
        t.env.pins = s.env.pins

/-- At a sampling point the pins take the sample's levels and the edges set their latches, whatever IE, the
mask and EI_DELAY are; nothing else of the processor changes. A latched request stays until it is served, until
SIM with bit 4 cancels it (R7.5), or until reset (60_exceptions.md section 2, 10_state.md section 4). -/
def Obligations.EdgesAreLatched : Prop :=
  ∀ s : State, s.sampled.env.pins = (nextSample s).pins ∧
    (s.sampled.intr.trapFF = true ↔ s.intr.trapFF = true ∨ (nextSample s).edge6 = true) ∧
    (s.sampled.intr.r75 = true ↔ s.intr.r75 = true ∨ (nextSample s).edge7 = true) ∧
    s.sampled.intr =
      { s.intr with trapFF := s.sampled.intr.trapFF, r75 := s.sampled.intr.r75 } ∧
    s.sampled.regs = s.regs ∧ s.sampled.flags = s.flags ∧
    s.sampled.sp = s.sp ∧ s.sampled.pc = s.pc ∧ s.sampled.mem = s.mem ∧
    s.sampled.halted = s.halted ∧ s.sampled.tfd = s.tfd ∧
    ∀ t, step s = .next t → (nextSample s).sr = false → (nextSample s).cut = none →
      (s.sampled.intr.trapFF = true → t.intr.trapFF = false → winner s.sampled = some .trap) ∧
      (s.sampled.intr.r75 = true → t.intr.r75 = false → winner s.sampled = some .rst75 ∨
        (fetchInstr s.sampled.clearEiDelay).1 = .sim ∧ s.regs.a.getLsbD 4 = true)

/-- The common entry sequence (R320). -/
def Obligations.InterruptEntrySavesPcOnly : Prop :=
  ∀ (s : State) (vector : Word), EntersAt s (takeInterrupt vector s) vector ∧
    (takeInterrupt vector s).intr.r75 = s.intr.r75 ∧
    (takeInterrupt vector s).intr.trapFF = s.intr.trapFF ∧
    (takeInterrupt vector s).intr.ieBeforeTrap = s.intr.ieBeforeTrap ∧
    (takeInterrupt vector s).intr.trapRimPending = s.intr.trapRimPending

/-- TRAP is taken whatever IE, EI_DELAY and the masks are; it keeps the old IE, clears its latch and enters
at 0024H (R330). -/
def Obligations.TrapIsTakenAtOnce : Prop :=
  ∀ s : State, undisturbed s = true → pendTrap s.sampled = true → ∃ t, step s = .next t ∧
    EntersAt s t 0x0024 ∧ t.intr.ieBeforeTrap = s.intr.ie ∧ t.intr.trapRimPending = true ∧
    t.intr.trapFF = false ∧ t.intr.r75 = s.sampled.intr.r75

/-- RST 7.5, RST 6.5 and RST 5.5 enter at their addresses; RST 7.5 clears its latch, the others have none
(R301, R332, R333). -/
def Obligations.MaskableEntriesGoToTheirVectors : Prop :=
  ∀ s : State, undisturbed s = true →
    (winner s.sampled = some .rst75 →
      ∃ t, step s = .next t ∧ EntersAt s t 0x003C ∧ t.intr.r75 = false ∧
        t.intr.trapFF = s.sampled.intr.trapFF) ∧
    (winner s.sampled = some .rst65 →
      ∃ t, step s = .next t ∧ EntersAt s t 0x0034 ∧ t.intr.r75 = s.sampled.intr.r75 ∧
        t.intr.trapFF = s.sampled.intr.trapFF) ∧
    (winner s.sampled = some .rst55 →
      ∃ t, step s = .next t ∧ EntersAt s t 0x002C ∧ t.intr.r75 = s.sampled.intr.r75 ∧
        t.intr.trapFF = s.sampled.intr.trapFF)

/-- The acknowledge of INTR with the bytes the device supplies: RST n, or CALL and two more bytes, with PC
not advanced; any other first byte is refused by name (R325). -/
def Obligations.AcknowledgeRunsRestartOrCall : Prop :=
  ∀ s : State, undisturbed s = true → winner s.sampled = some .intr →
    (∀ (n : BitVec 3) rest, s.params.intaRst = true →
      s.env.busIn = opAt53 0xC7 (n.setWidth 8) :: rest →
      ∃ t, step s = .next t ∧ EntersAt s t (n.setWidth 16 * 8) ∧ t.env.busIn = rest) ∧
    (∀ lo hi rest, s.params.intaCall = true → s.env.busIn = 0xCD#8 :: lo :: hi :: rest →
      ∃ t, step s = .next t ∧ EntersAt s t (mkWord hi lo) ∧ t.env.busIn = rest) ∧
    (∀ b rest, (∀ n : BitVec 3, b ≠ opAt53 0xC7 (n.setWidth 8)) → b ≠ 0xCD#8 →
      s.env.busIn = b :: rest → step s = .refused (.intaByte b))

/-- After EI no maskable interrupt is taken at the next sampling point; the next instruction ends the delay
unless it is EI again, and TRAP ignores the delay (R312). -/
def Obligations.EiDelaysMaskableInterrupts : Prop :=
  ∀ s : State,
    (∃ t, exec .ei s = .next t ∧ t.intr.ie = true ∧ t.intr.eiDelay = true) ∧
    (s.intr.eiDelay = true → winner s.sampled = none ∨ winner s.sampled = some .trap) ∧
    (s.intr.eiDelay = true → pendTrap s.sampled = true → winner s.sampled = some .trap) ∧
    ∀ t, runsProgram s = true → step s = .next t →
      (fetchInstr s.sampled.clearEiDelay).1 ≠ .ei → t.intr.eiDelay = false

/-- HLT sets HALTED and nothing else. While halted with nothing pending a slot does nothing; the halt ends when
an interrupt is taken, which pushes PC, the address after the HLT; a reset at the sampling point or inside the
slot ends it too, a hold does not, and with IE = 0 nothing but TRAP or reset does (49_control.md,
60_exceptions.md section 4; that the idle slot is a next state is log entry 23, the form of the reset inside a
slot log entry 15). -/
def Obligations.HaltEndsOnlyByInterruptOrReset : Prop :=
  (∀ s : State, exec .hlt s = .next { s with halted := true }) ∧
  ∀ s : State, s.halted = true →
    ((nextSample s).sr = true → ∃ t, step s = .next t ∧ t.halted = false) ∧
    ((nextSample s).sr = false → (nextSample s).rqm = true →
      ∃ t, step s = .next t ∧ t.halted = true) ∧
    (∀ t, (nextSample s).sr = false → (nextSample s).rqm = false → (nextSample s).cut ≠ none →
      step s = .next t → t.halted = false) ∧
    (s.intr.ie = false → winner s.sampled = none ∨ winner s.sampled = some .trap) ∧
    (undisturbed s = true →
      (winner s.sampled = none → step s = .next s.sampled ∧ s.sampled.halted = true) ∧
      (∀ t, winner s.sampled ≠ none → step s = .next t → t.halted = false ∧ Pushed s t s.pc))

/-! ## Memory and stack primitives -/

/-- What one byte read answers and one byte write does, by the kind of the address, at the machine cycle in
which it happens (20_memory.md sections 1 and 4). -/
def Obligations.AccessesFollowTheMemoryMap : Prop :=
  ∀ (s : State) (a : Word) (v : Byte),
    (s.kindAt a = .ram ∨ s.kindAt a = .rom → memRead s a = (s.atCycle.peek a, s.atCycle) ∧
      (s.params.dmaPresent = false ∨ s.env.holds = [] → memRead s a = (s.peek a, s))) ∧
    (s.kindAt a = .absent → (memRead s a).1 = Config.freeByte s.env.fresh) ∧
    (s.kindAt a = .device → ∀ b rest, s.env.busIn = b :: rest →
      (memRead s a).1 = b ∧ (memRead s a).2.env.busIn = rest ∧
        (memRead s a).2.env.trace = .devRead a b :: s.atCycle.env.trace) ∧
    (∀ b, b ∉ s.dmaAddrs → (memRead s a).2.peek b = s.peek b) ∧
    Stored s (memWrite s a v) a v ∧
    ∀ b, b ≠ a → b ∉ s.dmaAddrs → (memWrite s a v).peek b = s.peek b

/-- Two-byte accesses are little-endian and wrap at FFFFH; what is written reads back where the other master
does not write meanwhile (R66). -/
def Obligations.WordAccessesAreLittleEndian : Prop :=
  ∀ (s : State) (a v : Word),
    memRead16 s a =
      (mkWord (memRead (memRead s a).2 (a + 1)).1 (memRead s a).1,
        (memRead (memRead s a).2 (a + 1)).2) ∧
    memWrite16 s a v = memWrite (memWrite s a (loByte v)) (a + 1) (hiByte v) ∧
    (0xFFFF#16 : Word) + 1 = 0x0000 ∧
    (s.kindAt a = .ram → s.kindAt (a + 1) = .ram →
      (memWrite16 s a v).peek (a + 1) = hiByte v ∧
      (a ∉ s.dmaAddrs → (memWrite16 s a v).peek a = loByte v) ∧
      (a ∉ s.dmaAddrs → a + 1 ∉ s.dmaAddrs → (memRead16 (memWrite16 s a v) a).1 = v) ∧
      (s.params.dmaPresent = false →
        memRead16 (memWrite16 s a v) a = (v, memWrite16 s a v))) ∧
    (∀ w : Word, s.kindAt (s.sp - 1) = .ram → s.kindAt (s.sp - 2) = .ram →
      s.sp - 1 ∉ s.dmaAddrs →
      (push16 s w).peek (push16 s w).sp = loByte w ∧
        (push16 s w).peek ((push16 s w).sp + 1) = hiByte w)

/-- `push16` stores the high byte at sp - 1, then the low byte at sp - 2, and lowers SP by two; `pop16` reads
the low byte at sp, then the high byte at sp + 1, raises SP by two and alters no memory (R140, R141). -/
def Obligations.StackPrimitivesPushAndPop : Prop :=
  ∀ (s : State) (v : Word), Pushed s (push16 s v) v ∧
    push16 s v = { memWrite (memWrite s (s.sp - 1) (hiByte v)) (s.sp - 2) (loByte v) with
      sp := s.sp - 2 } ∧
    (s.kindAt (s.sp - 1) = .device → s.kindAt (s.sp - 2) = .device →
      s.params.dmaPresent = false ∨ s.env.holds = [] →
      (push16 s v).env.trace =
        .devWrite (s.sp - 2) (loByte v) :: .devWrite (s.sp - 1) (hiByte v) :: s.env.trace) ∧
    (push16 s v).sp.toNat = (s.sp.toNat + 65534) % 65536 ∧
    (pop16 s).1 = mkWord (memRead (memRead s s.sp).2 (s.sp + 1)).1 (memRead s s.sp).1 ∧
    (s.plain s.sp → s.plain (s.sp + 1) → s.sp ∉ s.dmaAddrs → s.sp + 1 ∉ s.dmaAddrs →
      (pop16 s).1 = mkWord (s.peek (s.sp + 1)) (s.peek s.sp)) ∧
    (pop16 s).2.sp.toNat = (s.sp.toNat + 2) % 65536 ∧
      ∀ a, a ∉ s.dmaAddrs → (pop16 s).2.peek a = s.peek a

/-! ## Transfer -/

/-- MOV in its three forms (R120, R121, R122). -/
def Obligations.MovCopiesOneByte : Prop :=
  ∀ s : State,
    (∀ dst src, Encodes [opAt20 (opAt53 0x40 dst.code) src.code] (.movRR dst src) ∧
      Completes (.movRR dst src) s fun t => t.reg dst = s.reg src) ∧
    (∀ dst, Encodes [opAt53 0x46 dst.code] (.movRM dst) ∧
      Completes (.movRM dst) s fun t => t.reg dst = (memRead s s.hl).1) ∧
    (∀ r, Encodes [opAt20 0x70 r.code] (.movMR r) ∧
      Completes (.movMR r) s fun t => Stored s t s.hl (s.reg r))

/-- MVI and LXI (R123, R124, R125). -/
def Obligations.ImmediateLoadsTakeTheOperand : Prop :=
  ∀ s : State,
    (∀ dst v, Encodes [opAt53 0x06 dst.code, v] (.mviR dst v) ∧
      Completes (.mviR dst v) s fun t => t.reg dst = v) ∧
    (∀ v, Encodes [0x36, v] (.mviM v) ∧ Completes (.mviM v) s fun t => Stored s t s.hl v) ∧
    (∀ q, Encodes3 (opAt54 0x01 q.code) (.lxi q) ∧
      ∀ v, Completes (.lxi q v) s fun t => t.pair q = v)

/-- LDA, STA, LHLD, SHLD, LDAX, STAX (R126 to R131), and LHLX, SHLX where EXT10 is `admitted`, as it is after
reset by log entry 1 (R135, R136). -/
def Obligations.AddressedLoadsAndStores : Prop :=
  (Encodes3 0x3A .lda ∧ Encodes3 0x32 .sta ∧ Encodes3 0x2A .lhld ∧ Encodes3 0x22 .shld ∧
      Encodes [0x0A] (.ldax .bc) ∧ Encodes [0x1A] (.ldax .de) ∧ Encodes [0x02] (.stax .bc) ∧
      Encodes [0x12] (.stax .de) ∧ Encodes [0xED] .lhlx ∧ Encodes [0xD9] .shlx) ∧
    ∀ (s : State) (a : Word),
      (Completes (.lda a) s fun t => t.regs.a = (memRead s a).1) ∧
      (Completes (.sta a) s fun t => Stored s t a s.regs.a) ∧
      (Completes (.lhld a) s fun t =>
        t.regs.l = (memRead s a).1 ∧ t.regs.h = (memRead (memRead s a).2 (a + 1)).1) ∧
      (Completes (.shld a) s fun t =>
        (a ∉ s.dmaAddrs → Stored s t a s.regs.l) ∧ Stored s t (a + 1) s.regs.h) ∧
      (∀ q, q = .bc ∨ q = .de →
        (Completes (.ldax q) s fun t => t.regs.a = (memRead s (s.pair q)).1) ∧
          Completes (.stax q) s fun t => Stored s t (s.pair q) s.regs.a) ∧
      (CompletesIfAdmitted .lhlx "LHLX" s fun t =>
        t.regs.l = (memRead s s.de).1 ∧ t.regs.h = (memRead (memRead s s.de).2 (s.de + 1)).1) ∧
      (CompletesIfAdmitted .shlx "SHLX" s fun t =>
        (s.de ∉ s.dmaAddrs → Stored s t s.de s.regs.l) ∧ Stored s t (s.de + 1) s.regs.h)

/-- XCHG, SPHL (R132, R147), and LDHI, LDSI where EXT10 is `admitted`, as it is after reset by log entry 1
(R133, R134). -/
def Obligations.ExchangeAndAddressFormation : Prop :=
  (Encodes [0xEB] .xchg ∧ Encodes [0xF9] .sphl ∧ (∀ v, Encodes [0x28, v] (.ldhi v)) ∧
      ∀ v, Encodes [0x38, v] (.ldsi v)) ∧
    ∀ s : State,
      (Completes .xchg s fun t => t.hl = s.de ∧ t.de = s.hl) ∧
      (∀ v, CompletesIfAdmitted (.ldhi v) "LDHI" s fun t =>
        t.de.toNat = (s.hl.toNat + v.toNat) % 65536 ∧ t.flags = s.flags) ∧
      (∀ v, CompletesIfAdmitted (.ldsi v) "LDSI" s fun t =>
        t.de.toNat = (s.sp.toNat + v.toNat) % 65536 ∧ t.flags = s.flags) ∧
      (Completes .sphl s fun t => t.sp = s.hl)

/-! ## Stack instructions -/

/-- PUSH and POP of a pair, XTHL (R142, R144, R146). -/
def Obligations.StackInstructionsMovePairs : Prop :=
  ∀ s : State,
    (∀ q, q ≠ .sp → Encodes [opAt54 0xC5 q.code] (.push q) ∧
      Completes (.push q) s fun t => Pushed s t (s.pair q)) ∧
    (∀ q, q ≠ .sp → Encodes [opAt54 0xC1 q.code] (.pop q) ∧
      Completes (.pop q) s fun t => t.pair q = (memRead16 s s.sp).1 ∧ t.sp = s.sp + 2) ∧
    (Encodes [0xE3] .xthl ∧
      Completes .xthl s fun t => t.hl = (memRead16 s s.sp).1 ∧
        (s.sp + 1 ∉ s.dmaAddrs → Stored s t (s.sp + 1) s.regs.h) ∧ Stored s t s.sp s.regs.l)

/-- PUSH PSW stores A and the flag byte, POP PSW loads A and all seven flags from them whatever VK_EXACT
is (R143, R145, R31). -/
def Obligations.PswHoldsAccumulatorAndFlags : Prop :=
  ∀ s : State, Encodes [0xF5] .pushPsw ∧ Encodes [0xF1] .popPsw ∧
    (Completes .pushPsw s fun t => ∃ f : Byte, Pushed s t (mkWord s.regs.a f) ∧
      f.getLsbD 7 = s.flags.s ∧ f.getLsbD 6 = s.flags.z ∧ f.getLsbD 5 = s.flags.k ∧
      f.getLsbD 4 = s.flags.ac ∧ f.getLsbD 2 = s.flags.p ∧ f.getLsbD 1 = s.flags.v ∧
      f.getLsbD 0 = s.flags.cy ∧ (s.params.flagBit3 = .zero → f.getLsbD 3 = false) ∧
      (s.params.flagBit3 = .one → f.getLsbD 3 = true) ∧
      (s.params.flagBit3 = .draw → f.getLsbD 3 = Config.freeBit s.env.fresh)) ∧
    (Completes .popPsw s fun t => t.sp = s.sp + 2 ∧
      t.regs.a = (memRead (memRead s s.sp).2 (s.sp + 1)).1 ∧
      t.flags.s = (memRead s s.sp).1.getLsbD 7 ∧ t.flags.z = (memRead s s.sp).1.getLsbD 6 ∧
      t.flags.k = (memRead s s.sp).1.getLsbD 5 ∧ t.flags.ac = (memRead s s.sp).1.getLsbD 4 ∧
      t.flags.p = (memRead s s.sp).1.getLsbD 2 ∧ t.flags.v = (memRead s s.sp).1.getLsbD 1 ∧
      t.flags.cy = (memRead s s.sp).1.getLsbD 0)

/-- On a ram stack that the other master does not write, POP undoes PUSH: a pair pushed and popped into a pair
gives that value and the old SP, and POP PSW after PUSH PSW gives back A and all seven flags (41_stack.md). RET
undoes CALL: it resumes at the instruction after the call, with SP, registers and flags as they were
(42_branch_call.md, 43_return_restart.md). -/
def Obligations.PopUndoesPush : Prop :=
  ∀ s : State, s.kindAt (s.sp - 1) = .ram → s.kindAt (s.sp - 2) = .ram →
    s.sp - 1 ∉ s.dmaAddrs → s.sp - 2 ∉ s.dmaAddrs →
    (∀ q q', q ≠ .sp → q' ≠ .sp → ∀ t u, exec (.push q) s = .next t → exec (.pop q') t = .next u →
      u.pair q' = s.pair q ∧ u.sp = s.sp) ∧
    (∀ t u, exec .pushPsw s = .next t → exec .popPsw t = .next u →
      u.regs = s.regs ∧ u.flags = s.flags ∧ u.sp = s.sp) ∧
    (∀ t u a, exec (.call a) s = .next t → exec .ret t = .next u →
      u.pc = s.pc ∧ u.sp = s.sp ∧ u.regs = s.regs ∧ u.flags = s.flags)

/-! ## Jumps, calls, returns, restarts -/

/-- The condition test (R150). -/
def Obligations.ConditionsTestOneFlag : Prop :=
  ∀ f : Flags,
    (condHolds .nz f = true ↔ f.z = false) ∧ (condHolds .z f = true ↔ f.z = true) ∧
    (condHolds .nc f = true ↔ f.cy = false) ∧ (condHolds .c f = true ↔ f.cy = true) ∧
    (condHolds .po f = true ↔ f.p = false) ∧ (condHolds .pe f = true ↔ f.p = true) ∧
    (condHolds .p f = true ↔ f.s = false) ∧ (condHolds .m f = true ↔ f.s = true)

/-- JMP, the eight conditional jumps, PCHL (R151 to R160), and JNK and JK where EXT10 is `admitted`, as it is
after reset by log entry 1 (R171, R172). -/
def Obligations.JumpsFollowTheirTest : Prop :=
  JumpsWhen 0xC3 .jmp (fun _ => true) ∧
  JumpsWhen 0xC2 .jnz (fun s => !s.flags.z) ∧ JumpsWhen 0xCA .jz (fun s => s.flags.z) ∧
  JumpsWhen 0xD2 .jnc (fun s => !s.flags.cy) ∧ JumpsWhen 0xDA .jc (fun s => s.flags.cy) ∧
  JumpsWhen 0xE2 .jpo (fun s => !s.flags.p) ∧ JumpsWhen 0xEA .jpe (fun s => s.flags.p) ∧
  JumpsWhen 0xF2 .jp (fun s => !s.flags.s) ∧ JumpsWhen 0xFA .jm (fun s => s.flags.s) ∧
  (Encodes3 0xDD .jnk ∧ ∀ a s, CompletesIfAdmitted (.jnk a) "JNK" s fun t =>
    t.pc = if !s.flags.k then a else s.pc) ∧
  (Encodes3 0xFD .jk ∧ ∀ a s, CompletesIfAdmitted (.jk a) "JK" s fun t =>
    t.pc = if s.flags.k then a else s.pc) ∧
  Encodes [0xE9] .pchl ∧ ∀ s, Completes .pchl s fun t => t.pc = s.hl

/-- CALL and the eight conditional calls (R161 to R169). -/
def Obligations.CallsFollowTheirTest : Prop :=
  CallsWhen 0xCD .call (fun _ => true) ∧
  CallsWhen 0xC4 .cnz (fun s => !s.flags.z) ∧ CallsWhen 0xCC .cz (fun s => s.flags.z) ∧
  CallsWhen 0xD4 .cnc (fun s => !s.flags.cy) ∧ CallsWhen 0xDC .cc (fun s => s.flags.cy) ∧
  CallsWhen 0xE4 .cpo (fun s => !s.flags.p) ∧ CallsWhen 0xEC .cpe (fun s => s.flags.p) ∧
  CallsWhen 0xF4 .cp (fun s => !s.flags.s) ∧ CallsWhen 0xFC .cm (fun s => s.flags.s)

/-- RET and the eight conditional returns (R180 to R188). -/
def Obligations.ReturnsFollowTheirTest : Prop :=
  ReturnsWhen 0xC9 .ret (fun _ => true) ∧
  ReturnsWhen 0xC0 .rnz (fun s => !s.flags.z) ∧ ReturnsWhen 0xC8 .rz (fun s => s.flags.z) ∧
  ReturnsWhen 0xD0 .rnc (fun s => !s.flags.cy) ∧ ReturnsWhen 0xD8 .rc (fun s => s.flags.cy) ∧
  ReturnsWhen 0xE0 .rpo (fun s => !s.flags.p) ∧ ReturnsWhen 0xE8 .rpe (fun s => s.flags.p) ∧
  ReturnsWhen 0xF0 .rp (fun s => !s.flags.s) ∧ ReturnsWhen 0xF8 .rm (fun s => s.flags.s)

/-- RST n (R190), and RSTV where EXT10 is `admitted`, as it is after reset by log entry 1; where it is `refused`,
RSTV is refused by its name (R191). -/
def Obligations.RestartsCallFixedAddresses : Prop :=
  ∀ s : State,
    (∀ n : BitVec 3, Encodes [opAt53 0xC7 (n.setWidth 8)] (.rst n) ∧
      Completes (.rst n) s fun t => Pushed s t s.pc ∧ t.pc.toNat = n.toNat * 8) ∧
    (Encodes [0xCB] .rstv ∧
      CompletesIfAdmitted .rstv "RSTV" s fun t =>
        (s.flags.v = true → Pushed s t s.pc ∧ t.pc = 0x0040) ∧ (s.flags.v = false → t = s))

/-! ## Input and output -/

/-- IN loads A with what the environment answers and sets no flag, OUT hands A to the port and changes
nothing; both are events, after the hold that may precede the transfer (R200, R201). -/
def Obligations.PortInstructionsMoveA : Prop :=
  (∀ p, Encodes [0xDB, p] (.inPort p)) ∧ (∀ p, Encodes [0xD3, p] (.outPort p)) ∧
    ∀ (s : State) (p : Byte),
      (Completes (.inPort p) s fun t =>
        t.env.trace = .ioRead p t.regs.a :: s.atCycle.env.trace ∧
          (∀ v rest, s.env.busIn = v :: rest → t.regs.a = v ∧ t.env.busIn = rest) ∧
          (s.env.busIn = [] → t.regs.a = Config.freeByte s.env.fresh)) ∧
      (Completes (.outPort p) s fun t =>
        t.env.trace = .ioWrite p s.regs.a :: s.atCycle.env.trace ∧ t.mem = s.atCycle.mem ∧
          t.regs = s.regs)

/-! ## Arithmetic and logic -/

/-- The adder: result and carries of the exact sum, V the signed overflow, V xor the sign the sign of the
exact sum; and the flags its callers write from it (R210, R36). -/
def Obligations.AdderComputesTheSum : Prop :=
  ∀ (a b : Byte) (cin : Bool),
    (add8 a b cin).res.toNat = (a.toNat + b.toNat + cin.toNat) % 256 ∧
    ((add8 a b cin).cy = true ↔ 256 ≤ a.toNat + b.toNat + cin.toNat) ∧
    ((add8 a b cin).ac = true ↔ 15 < a.toNat % 16 + b.toNat % 16 + cin.toNat) ∧
    (add8 a b cin).v =
      (decide (127 < a.toNat % 128 + b.toNat % 128 + cin.toNat) ^^ (add8 a b cin).cy) ∧
    ((add8 a b cin).v = true ↔
      a.getLsbD 7 = b.getLsbD 7 ∧ (add8 a b cin).res.getLsbD 7 ≠ a.getLsbD 7) ∧
    ((add8 a b cin).v = true ↔
      a.toInt + b.toInt + cin.toNat < -128 ∨ 127 < a.toInt + b.toInt + cin.toNat) ∧
    (((add8 a b cin).v ^^ (add8 a b cin).res.getLsbD 7) = true ↔
      a.toInt + b.toInt + cin.toNat < 0) ∧
    ∀ (s : State) (cy : Bool), FlagsFrom s (add8 a b cin) cy

/-- The subtracter: the difference, the borrow as unsigned comparison, AC as "no borrow from bit 4", and
after it, without a borrow in, K as signed, CY as unsigned comparison and Z as equality; and the flags its
callers write from it (R211). -/
def Obligations.SubtracterComputesTheDifference : Prop :=
  ∀ (a b : Byte) (bin : Bool),
    sub8 a b bin = { add8 a (~~~b) (!bin) with cy := !(add8 a (~~~b) (!bin)).cy } ∧
    ((sub8 a b bin).res.toNat : Int) = ((a.toNat : Int) - b.toNat - bin.toNat) % 256 ∧
    ((sub8 a b bin).cy = true ↔ a.toNat < b.toNat + bin.toNat) ∧
    ((sub8 a b bin).ac = true ↔ b.toNat % 16 + bin.toNat ≤ a.toNat % 16) ∧
    ((sub8 a b bin).v = true ↔
      a.getLsbD 7 ≠ b.getLsbD 7 ∧ (sub8 a b bin).res.getLsbD 7 ≠ a.getLsbD 7) ∧
    (((sub8 a b false).v ^^ (sub8 a b false).res.getLsbD 7) = true ↔ a.toInt < b.toInt) ∧
    ((sub8 a b false).cy = true ↔ a.toNat < b.toNat) ∧
    ((sub8 a b false).res = 0 ↔ a = b) ∧
    ∀ (s : State) (cy : Bool), FlagsFrom s (sub8 a b bin) cy

/-- Parity counts the ones of the result, and S, Z, P are those of the result (R32). -/
def Obligations.SzpFollowTheResult : Prop :=
  ∀ (s : State) (res : Byte), SzpOf (s.setSzp res).flags res ∧
    (parity res = true ↔ onesIn res = 0 ∨ onesIn res = 2 ∨ onesIn res = 4 ∨ onesIn res = 6 ∨
      onesIn res = 8)

/-- With VK_EXACT false every instruction of R37's table but POP PSW leaves free values in V and K: the
two next ones, or where it draws others first the two after those (R39). -/
def Obligations.FreeOverflowAndAuxiliarySign : Prop :=
  ∀ (i : Instr) (s t : State), s.params.vkExact = false → (footprint i).flagRow = true → i ≠ .popPsw →
    exec i s = .next t →
    t.flags.v = Config.freeBit (t.env.fresh - 2) ∧ t.flags.k = Config.freeBit (t.env.fresh - 1) ∧
      s.env.fresh + 2 ≤ t.env.fresh

/-- ADD, ADI, ADC, ACI in every form (R213 to R218). -/
def Obligations.AdditionsAddToA : Prop :=
  ∀ s : State,
    (∀ r, Encodes [opAt20 0x80 r.code] (.addR r) ∧ AddsToA (.addR r) s (s.reg r) false) ∧
    (Encodes [0x86] .addM ∧ AddsToA .addM s (memRead s s.hl).1 false) ∧
    (∀ v, Encodes [0xC6, v] (.adi v) ∧ AddsToA (.adi v) s v false) ∧
    (∀ r, Encodes [opAt20 0x88 r.code] (.adcR r) ∧ AddsToA (.adcR r) s (s.reg r) s.flags.cy) ∧
    (Encodes [0x8E] .adcM ∧ AddsToA .adcM s (memRead s s.hl).1 s.flags.cy) ∧
    (∀ v, Encodes [0xCE, v] (.aci v) ∧ AddsToA (.aci v) s v s.flags.cy)

/-- SUB, SUI, SBB, SBI in every form (R219 to R224). -/
def Obligations.SubtractionsSubtractFromA : Prop :=
  ∀ s : State,
    (∀ r, Encodes [opAt20 0x90 r.code] (.subR r) ∧ SubtractsFromA (.subR r) s (s.reg r) false) ∧
    (Encodes [0x96] .subM ∧ SubtractsFromA .subM s (memRead s s.hl).1 false) ∧
    (∀ v, Encodes [0xD6, v] (.sui v) ∧ SubtractsFromA (.sui v) s v false) ∧
    (∀ r, Encodes [opAt20 0x98 r.code] (.sbbR r) ∧
      SubtractsFromA (.sbbR r) s (s.reg r) s.flags.cy) ∧
    (Encodes [0x9E] .sbbM ∧ SubtractsFromA .sbbM s (memRead s s.hl).1 s.flags.cy) ∧
    (∀ v, Encodes [0xDE, v] (.sbi v) ∧ SubtractsFromA (.sbi v) s v s.flags.cy)

/-- ANA, ANI, XRA, XRI, ORA, ORI in every form (R225 to R233). -/
def Obligations.LogicWorksBitByBit : Prop :=
  ∀ s : State,
    (∀ r, Encodes [opAt20 0xA0 r.code] (.anaR r) ∧
      LogicOnA (.anaR r) s (s.regs.a &&& s.reg r) true) ∧
    (Encodes [0xA6] .anaM ∧ LogicOnA .anaM s (s.regs.a &&& (memRead s s.hl).1) true) ∧
    (∀ v, Encodes [0xE6, v] (.ani v) ∧ LogicOnA (.ani v) s (s.regs.a &&& v) true) ∧
    (∀ r, Encodes [opAt20 0xA8 r.code] (.xraR r) ∧
      LogicOnA (.xraR r) s (s.regs.a ^^^ s.reg r) false) ∧
    (Encodes [0xAE] .xraM ∧ LogicOnA .xraM s (s.regs.a ^^^ (memRead s s.hl).1) false) ∧
    (∀ v, Encodes [0xEE, v] (.xri v) ∧ LogicOnA (.xri v) s (s.regs.a ^^^ v) false) ∧
    (∀ r, Encodes [opAt20 0xB0 r.code] (.oraR r) ∧
      LogicOnA (.oraR r) s (s.regs.a ||| s.reg r) false) ∧
    (Encodes [0xB6] .oraM ∧ LogicOnA .oraM s (s.regs.a ||| (memRead s s.hl).1) false) ∧
    (∀ v, Encodes [0xF6, v] (.ori v) ∧ LogicOnA (.ori v) s (s.regs.a ||| v) false)

/-- CMP and CPI in every form (R234, R235, R236). -/
def Obligations.ComparisonsSetFlagsOnly : Prop :=
  ∀ s : State,
    (∀ r, Encodes [opAt20 0xB8 r.code] (.cmpR r) ∧ ComparesA (.cmpR r) s (s.reg r)) ∧
    (Encodes [0xBE] .cmpM ∧ ComparesA .cmpM s (memRead s s.hl).1) ∧
    (∀ v, Encodes [0xFE, v] (.cpi v) ∧ ComparesA (.cpi v) s v)

/-- DAD: the 16-bit sum, its carry, and with VK_EXACT the 16-bit signed overflow in V (R237). -/
def Obligations.DadAddsAPair : Prop :=
  ∀ (s : State) (q : Pair), Encodes [opAt54 0x09 q.code] (.dad q) ∧
    Completes (.dad q) s fun t =>
      t.hl.toNat = (s.hl.toNat + (s.pair q).toNat) % 65536 ∧
        (t.flags.cy = true ↔ 65536 ≤ s.hl.toNat + (s.pair q).toNat) ∧
        (s.params.vkExact = true →
          (t.flags.v = true ↔
            s.hl.toInt + (s.pair q).toInt < -32768 ∨ 32767 < s.hl.toInt + (s.pair q).toInt)) ∧
        VkFree s t

/-- DSUB: the 16-bit difference, its borrow, its sign, and with VK_EXACT the signed overflow in V and the
signed comparison in K; Z, P and AC are three free values. So where EXT10 is `admitted`, as it is after reset by
log entry 1; where it is `refused`, DSUB is refused by its name (R238). -/
def Obligations.DsubSubtractsBc : Prop :=
  Encodes [0x08] .dsub ∧
    ∀ s : State, CompletesIfAdmitted .dsub "DSUB" s fun t =>
      (t.hl.toNat : Int) = ((s.hl.toNat : Int) - s.bc.toNat) % 65536 ∧
        (t.flags.cy = true ↔ s.hl.toNat < s.bc.toNat) ∧
        (t.flags.s = true ↔ 32768 ≤ t.hl.toNat) ∧
        t.flags.z = Config.freeBit s.env.fresh ∧ t.flags.p = Config.freeBit (s.env.fresh + 1) ∧
        t.flags.ac = Config.freeBit (s.env.fresh + 2) ∧
        (s.params.vkExact = true →
          (t.flags.v = true ↔
            s.hl.toInt - s.bc.toInt < -32768 ∨ 32767 < s.hl.toInt - s.bc.toInt) ∧
          (t.flags.k = true ↔ s.hl.toInt < s.bc.toInt)) ∧
        VkFree s t

/-! ## Rotates and shifts -/

/-- The four rotates of A, as arithmetic on its value (R245 to R248). -/
def Obligations.RotatesMoveOneBit : Prop :=
  (Encodes [0x07] .rlc ∧ Encodes [0x0F] .rrc ∧ Encodes [0x17] .ral ∧ Encodes [0x1F] .rar) ∧
    ∀ s : State,
      (Completes .rlc s fun t =>
        t.regs.a.toNat = s.regs.a.toNat * 2 % 256 + s.regs.a.toNat / 128 ∧
          (t.flags.cy = true ↔ 128 ≤ s.regs.a.toNat) ∧ VkFree s t) ∧
      (Completes .rrc s fun t =>
        t.regs.a.toNat = s.regs.a.toNat / 2 + s.regs.a.toNat % 2 * 128 ∧
          (t.flags.cy = true ↔ s.regs.a.toNat % 2 = 1) ∧ VkFree s t) ∧
      (Completes .ral s fun t =>
        t.regs.a.toNat = s.regs.a.toNat * 2 % 256 + s.flags.cy.toNat ∧
          (t.flags.cy = true ↔ 128 ≤ s.regs.a.toNat) ∧ VkFree s t) ∧
      (Completes .rar s fun t =>
        t.regs.a.toNat = s.regs.a.toNat / 2 + s.flags.cy.toNat * 128 ∧
          (t.flags.cy = true ↔ s.regs.a.toNat % 2 = 1) ∧ VkFree s t)

/-- ARHL halves the signed value of HL towards minus infinity with the remainder in CY; RDEL rotates
CY : DE left, V set when the signed value changes sign. So where EXT10 is `admitted`, as it is after reset by log
entry 1; where it is `refused`, they are refused by name (R249, R250). -/
def Obligations.WideShiftsMoveOneBit : Prop :=
  (Encodes [0x10] .arhl ∧ Encodes [0x18] .rdel) ∧
    ∀ s : State,
      (CompletesIfAdmitted .arhl "ARHL" s fun t =>
        t.hl.toInt = s.hl.toInt / 2 ∧ (t.flags.cy = true ↔ s.hl.toNat % 2 = 1) ∧ VkFree s t) ∧
      (CompletesIfAdmitted .rdel "RDEL" s fun t =>
        t.de.toNat = s.de.toNat * 2 % 65536 + s.flags.cy.toNat ∧
          (t.flags.cy = true ↔ 32768 ≤ s.de.toNat) ∧
          (s.params.vkExact = true →
            t.flags.v = (s.regs.d.getLsbD 7 ^^ s.regs.d.getLsbD 6)) ∧
          VkFree s t)

/-- `DAD H` followed by `RDEL` shifts the 32-bit number DE : HL left by one, the bit shifted out in CY
(46_shift.md). -/
def Obligations.DadThenRdelShifts32Bits : Prop :=
  ∀ s t u : State, exec (.dad .hl) s = .next t → exec .rdel t = .next u →
    u.flags.cy.toNat * 4294967296 + u.de.toNat * 65536 + u.hl.toNat =
      2 * (s.de.toNat * 65536 + s.hl.toNat)

/-! ## Increment and decrement -/

/-- INR and DCR of a register and of memory: all flags but CY, those of the sum with 1 and of the
difference with 1 (R255 to R258). -/
def Obligations.IncrementsAndDecrementsByOne : Prop :=
  ∀ s : State,
    (∀ r, Encodes [opAt53 0x04 r.code] (.inrR r) ∧
      Completes (.inrR r) s fun t => t.reg r = s.reg r + 1 ∧ t.flags.cy = s.flags.cy ∧
        SumFlags s t (s.reg r) 1 false (s.reg r + 1)) ∧
    (∀ r, Encodes [opAt53 0x05 r.code] (.dcrR r) ∧
      Completes (.dcrR r) s fun t => t.reg r = s.reg r - 1 ∧ t.flags.cy = s.flags.cy ∧
        DiffFlags s t (s.reg r) 1 false (s.reg r - 1)) ∧
    (Encodes [0x34] .inrM ∧
      Completes .inrM s fun t =>
        Stored s t s.hl ((memRead s s.hl).1 + 1) ∧ t.flags.cy = s.flags.cy ∧
          SumFlags s t (memRead s s.hl).1 1 false ((memRead s s.hl).1 + 1)) ∧
    (Encodes [0x35] .dcrM ∧
      Completes .dcrM s fun t =>
        Stored s t s.hl ((memRead s s.hl).1 - 1) ∧ t.flags.cy = s.flags.cy ∧
          DiffFlags s t (memRead s s.hl).1 1 false ((memRead s s.hl).1 - 1))

/-- INX and DCX count a pair modulo 65,536; with VK_EXACT, K is the carry or borrow out of it, and no other
flag changes (R259, R260). -/
def Obligations.PairCountersWrap : Prop :=
  ∀ (s : State) (q : Pair),
    (Encodes [opAt54 0x03 q.code] (.inx q) ∧
      Completes (.inx q) s fun t => (t.pair q).toNat = ((s.pair q).toNat + 1) % 65536 ∧
        (s.params.vkExact = true → (t.flags.k = true ↔ (s.pair q).toNat = 65535)) ∧
        VkFree s t) ∧
    (Encodes [opAt54 0x0B q.code] (.dcx q) ∧
      Completes (.dcx q) s fun t => (t.pair q).toNat = ((s.pair q).toNat + 65535) % 65536 ∧
        (s.params.vkExact = true → (t.flags.k = true ↔ (s.pair q).toNat = 0)) ∧ VkFree s t)

/-! ## Special and control -/

/-- DAA: the correction, its result and its flags; CY is set when it was set or when 60H was added and is
never cleared (R265). -/
def Obligations.DaaAddsItsCorrection : Prop :=
  Encodes [0x27] .daa ∧
    ∀ s : State, Completes .daa s fun t =>
      let low : Nat := if s.flags.ac = true ∨ 9 < s.regs.a.toNat % 16 then 6 else 0
      let high : Nat := if s.flags.cy = true ∨ 153 < s.regs.a.toNat then 96 else 0
      t.regs.a.toNat = (s.regs.a.toNat + low + high) % 256 ∧
        (t.flags.cy = true ↔ s.flags.cy = true ∨ 153 < s.regs.a.toNat) ∧
        SumFlags s t s.regs.a (BitVec.ofNat 8 (low + high)) false t.regs.a

/-- DAA after a binary addition of two packed-decimal bytes and a carry gives their decimal sum, with the
carry out of the two digits in CY (48_special.md). -/
def Obligations.DaaCompletesDecimalAddition : Prop :=
  ∀ (s t u : State) (y : Byte), isPackedDecimal s.regs.a = true → isPackedDecimal y = true →
    exec (.aci y) s = .next t → exec .daa t = .next u →
    isPackedDecimal u.regs.a = true ∧
      u.flags.cy.toNat * 100 + packedDecimal u.regs.a =
        packedDecimal s.regs.a + packedDecimal y + s.flags.cy.toNat

/-- RIM shows the serial input, the requests whether masked or not, IE and the masks; the first one after a
TRAP entry shows in bit 3 what TRAP_RIM_QUIRK says, and with savedIE and draw it ends the pending state. That
draw ends it and that currentIE leaves it alone is the model's choice, log entry 6 (48_special.md,
60_exceptions.md section 4). -/
def Obligations.RimReadsInterruptState : Prop :=
  Encodes [0x20] .rim ∧
    ∀ s : State, Completes .rim s fun t =>
      t.regs.a.getLsbD 7 = s.env.pins.rcd ∧ t.regs.a.getLsbD 6 = s.intr.r75 ∧
      t.regs.a.getLsbD 5 = s.env.pins.pin8 ∧ t.regs.a.getLsbD 4 = s.env.pins.pin9 ∧
      t.regs.a.getLsbD 2 = s.intr.m75 ∧ t.regs.a.getLsbD 1 = s.intr.m65 ∧
      t.regs.a.getLsbD 0 = s.intr.m55 ∧
      (s.intr.trapRimPending = false →
        t.regs.a.getLsbD 3 = s.intr.ie ∧ t.intr.trapRimPending = false) ∧
      (s.intr.trapRimPending = true → s.params.trapRim = .savedIE →
        t.regs.a.getLsbD 3 = s.intr.ieBeforeTrap ∧ t.intr.trapRimPending = false) ∧
      (s.intr.trapRimPending = true → s.params.trapRim = .draw →
        t.regs.a.getLsbD 3 = Config.freeBit s.env.fresh ∧ t.intr.trapRimPending = false) ∧
      (s.params.trapRim = .currentIE → t.regs.a.getLsbD 3 = s.intr.ie ∧
        t.intr.trapRimPending = s.intr.trapRimPending)

/-- SIM's three independent parts; IE and A do not change (R270). -/
def Obligations.SimWritesInItsThreeParts : Prop :=
  Encodes [0x30] .sim ∧
    ∀ s : State, Completes .sim s fun t =>
      (s.regs.a.getLsbD 3 = true → t.intr.m75 = s.regs.a.getLsbD 2 ∧
        t.intr.m65 = s.regs.a.getLsbD 1 ∧ t.intr.m55 = s.regs.a.getLsbD 0) ∧
      (s.regs.a.getLsbD 3 = false → t.intr.m75 = s.intr.m75 ∧ t.intr.m65 = s.intr.m65 ∧
        t.intr.m55 = s.intr.m55) ∧
      (s.regs.a.getLsbD 4 = true → t.intr.r75 = false) ∧
      (s.regs.a.getLsbD 4 = false → t.intr.r75 = s.intr.r75) ∧
      (s.regs.a.getLsbD 6 = true → t.tfd = s.regs.a.getLsbD 7) ∧
      (s.regs.a.getLsbD 6 = false → t.tfd = s.tfd)

/-- CMA, STC, CMC, NOP, HLT, EI, DI (R266, R267, R268, R275, R276, R277, R278). -/
def Obligations.AccumulatorCarryAndControl : Prop :=
  (Encodes [0x2F] .cma ∧ Encodes [0x37] .stc ∧ Encodes [0x3F] .cmc ∧ Encodes [0x00] .nop ∧
      Encodes [0x76] .hlt ∧ Encodes [0xFB] .ei ∧ Encodes [0xF3] .di) ∧
    ∀ s : State,
      (Completes .cma s fun t => t.regs.a.toNat = 255 - s.regs.a.toNat ∧ VkFree s t) ∧
      (Completes .stc s fun t => t.flags.cy = true ∧ VkFree s t) ∧
      (Completes .cmc s fun t => t.flags.cy = (!s.flags.cy) ∧ VkFree s t) ∧
      (Completes .nop s fun t => t = s) ∧
      (Completes .hlt s fun t => t.halted = true) ∧
      (Completes .ei s fun t => t.intr.ie = true ∧ t.intr.eiDelay = true) ∧
      (Completes .di s fun t => t.intr.ie = false)
end

