-- ==== Sys2Proof/Laws/Footprint.lean ====
section
/-! SUPPORT. The tables of footprints and of data accesses, row by row. -/

namespace Sys2Proof.Machine

variable (s : State)

/-! ## What an instruction may write -/

@[simp] theorem footprint_movRR (dst src : Reg) :
    footprint (.movRR dst src) = { regs := [dst] } := rfl
@[simp] theorem footprint_movRM (dst : Reg) :
    footprint (.movRM dst) = { regs := [dst] } := rfl
@[simp] theorem footprint_movMR (src : Reg) :
    footprint (.movMR src) = {} := rfl
@[simp] theorem footprint_hlt :
    footprint .hlt = {} := rfl
@[simp] theorem footprint_mviR (dst : Reg) (d8 : Byte) :
    footprint (.mviR dst d8) = { regs := [dst] } := rfl
@[simp] theorem footprint_mviM (d8 : Byte) :
    footprint (.mviM d8) = {} := rfl
@[simp] theorem footprint_lxi (rp : Pair) (d16 : Word) :
    footprint (.lxi rp d16) = { regs := pairRegs rp, sp := isSp rp } := rfl
@[simp] theorem footprint_lda (a16 : Word) :
    footprint (.lda a16) = { regs := [.a] } := rfl
@[simp] theorem footprint_sta (a16 : Word) :
    footprint (.sta a16) = {} := rfl
@[simp] theorem footprint_lhld (a16 : Word) :
    footprint (.lhld a16) = { regs := [.h, .l] } := rfl
@[simp] theorem footprint_shld (a16 : Word) :
    footprint (.shld a16) = {} := rfl
@[simp] theorem footprint_ldax (rp : Pair) :
    footprint (.ldax rp) = { regs := [.a] } := rfl
@[simp] theorem footprint_stax (rp : Pair) :
    footprint (.stax rp) = {} := rfl
@[simp] theorem footprint_xchg :
    footprint .xchg = { regs := [.d, .e, .h, .l] } := rfl
@[simp] theorem footprint_ldhi (d8 : Byte) :
    footprint (.ldhi d8) = { regs := [.d, .e], ext10 := true } := rfl
@[simp] theorem footprint_ldsi (d8 : Byte) :
    footprint (.ldsi d8) = { regs := [.d, .e], ext10 := true } := rfl
@[simp] theorem footprint_lhlx :
    footprint .lhlx = { regs := [.h, .l], ext10 := true } := rfl
@[simp] theorem footprint_shlx :
    footprint .shlx = { ext10 := true } := rfl
@[simp] theorem footprint_push (rp : Pair) :
    footprint (.push rp) = { sp := true } := rfl
@[simp] theorem footprint_pushPsw :
    footprint .pushPsw = { sp := true } := rfl
@[simp] theorem footprint_pop (rp : Pair) :
    footprint (.pop rp) = { regs := pairRegs rp, sp := true } := rfl
@[simp] theorem footprint_popPsw :
    footprint .popPsw = { regs := [.a], sp := true, flags := allFlags } := rfl
@[simp] theorem footprint_xthl :
    footprint .xthl = { regs := [.h, .l] } := rfl
@[simp] theorem footprint_sphl :
    footprint .sphl = { sp := true } := rfl
@[simp] theorem footprint_jmp (a16 : Word) :
    footprint (.jmp a16) = { pc := true } := rfl
@[simp] theorem footprint_jnz (a16 : Word) :
    footprint (.jnz a16) = { pc := true } := rfl
@[simp] theorem footprint_jz (a16 : Word) :
    footprint (.jz a16) = { pc := true } := rfl
@[simp] theorem footprint_jnc (a16 : Word) :
    footprint (.jnc a16) = { pc := true } := rfl
@[simp] theorem footprint_jc (a16 : Word) :
    footprint (.jc a16) = { pc := true } := rfl
@[simp] theorem footprint_jpo (a16 : Word) :
    footprint (.jpo a16) = { pc := true } := rfl
@[simp] theorem footprint_jpe (a16 : Word) :
    footprint (.jpe a16) = { pc := true } := rfl
@[simp] theorem footprint_jp (a16 : Word) :
    footprint (.jp a16) = { pc := true } := rfl
@[simp] theorem footprint_jm (a16 : Word) :
    footprint (.jm a16) = { pc := true } := rfl
@[simp] theorem footprint_pchl :
    footprint .pchl = { pc := true } := rfl
@[simp] theorem footprint_call (a16 : Word) :
    footprint (.call a16) = { sp := true, pc := true } := rfl
@[simp] theorem footprint_cnz (a16 : Word) :
    footprint (.cnz a16) = { sp := true, pc := true } := rfl
@[simp] theorem footprint_cz (a16 : Word) :
    footprint (.cz a16) = { sp := true, pc := true } := rfl
@[simp] theorem footprint_cnc (a16 : Word) :
    footprint (.cnc a16) = { sp := true, pc := true } := rfl
@[simp] theorem footprint_cc (a16 : Word) :
    footprint (.cc a16) = { sp := true, pc := true } := rfl
@[simp] theorem footprint_cpo (a16 : Word) :
    footprint (.cpo a16) = { sp := true, pc := true } := rfl
@[simp] theorem footprint_cpe (a16 : Word) :
    footprint (.cpe a16) = { sp := true, pc := true } := rfl
@[simp] theorem footprint_cp (a16 : Word) :
    footprint (.cp a16) = { sp := true, pc := true } := rfl
@[simp] theorem footprint_cm (a16 : Word) :
    footprint (.cm a16) = { sp := true, pc := true } := rfl
@[simp] theorem footprint_jnk (a16 : Word) :
    footprint (.jnk a16) = { pc := true, ext10 := true } := rfl
@[simp] theorem footprint_jk (a16 : Word) :
    footprint (.jk a16) = { pc := true, ext10 := true } := rfl
@[simp] theorem footprint_ret :
    footprint .ret = { sp := true, pc := true } := rfl
@[simp] theorem footprint_rnz :
    footprint .rnz = { sp := true, pc := true } := rfl
@[simp] theorem footprint_rz :
    footprint .rz = { sp := true, pc := true } := rfl
@[simp] theorem footprint_rnc :
    footprint .rnc = { sp := true, pc := true } := rfl
@[simp] theorem footprint_rc :
    footprint .rc = { sp := true, pc := true } := rfl
@[simp] theorem footprint_rpo :
    footprint .rpo = { sp := true, pc := true } := rfl
@[simp] theorem footprint_rpe :
    footprint .rpe = { sp := true, pc := true } := rfl
@[simp] theorem footprint_rp :
    footprint .rp = { sp := true, pc := true } := rfl
@[simp] theorem footprint_rm :
    footprint .rm = { sp := true, pc := true } := rfl
@[simp] theorem footprint_rst (n : BitVec 3) :
    footprint (.rst n) = { sp := true, pc := true } := rfl
@[simp] theorem footprint_rstv :
    footprint .rstv = { sp := true, pc := true, ext10 := true } := rfl
@[simp] theorem footprint_inPort (p8 : Byte) :
    footprint (.inPort p8) = { regs := [.a] } := rfl
@[simp] theorem footprint_outPort (p8 : Byte) :
    footprint (.outPort p8) = {} := rfl
@[simp] theorem footprint_addR (src : Reg) :
    footprint (.addR src) = { regs := [.a], flags := allFlags } := rfl
@[simp] theorem footprint_addM :
    footprint .addM = { regs := [.a], flags := allFlags } := rfl
@[simp] theorem footprint_adi (d8 : Byte) :
    footprint (.adi d8) = { regs := [.a], flags := allFlags } := rfl
@[simp] theorem footprint_adcR (src : Reg) :
    footprint (.adcR src) = { regs := [.a], flags := allFlags } := rfl
@[simp] theorem footprint_adcM :
    footprint .adcM = { regs := [.a], flags := allFlags } := rfl
@[simp] theorem footprint_aci (d8 : Byte) :
    footprint (.aci d8) = { regs := [.a], flags := allFlags } := rfl
@[simp] theorem footprint_subR (src : Reg) :
    footprint (.subR src) = { regs := [.a], flags := allFlags } := rfl
@[simp] theorem footprint_subM :
    footprint .subM = { regs := [.a], flags := allFlags } := rfl
@[simp] theorem footprint_sui (d8 : Byte) :
    footprint (.sui d8) = { regs := [.a], flags := allFlags } := rfl
@[simp] theorem footprint_sbbR (src : Reg) :
    footprint (.sbbR src) = { regs := [.a], flags := allFlags } := rfl
@[simp] theorem footprint_sbbM :
    footprint .sbbM = { regs := [.a], flags := allFlags } := rfl
@[simp] theorem footprint_sbi (d8 : Byte) :
    footprint (.sbi d8) = { regs := [.a], flags := allFlags } := rfl
@[simp] theorem footprint_anaR (src : Reg) :
    footprint (.anaR src) = { regs := [.a], flags := allFlags } := rfl
@[simp] theorem footprint_anaM :
    footprint .anaM = { regs := [.a], flags := allFlags } := rfl
@[simp] theorem footprint_ani (d8 : Byte) :
    footprint (.ani d8) = { regs := [.a], flags := allFlags } := rfl
@[simp] theorem footprint_xraR (src : Reg) :
    footprint (.xraR src) = { regs := [.a], flags := allFlags } := rfl
@[simp] theorem footprint_xraM :
    footprint .xraM = { regs := [.a], flags := allFlags } := rfl
@[simp] theorem footprint_xri (d8 : Byte) :
    footprint (.xri d8) = { regs := [.a], flags := allFlags } := rfl
@[simp] theorem footprint_oraR (src : Reg) :
    footprint (.oraR src) = { regs := [.a], flags := allFlags } := rfl
@[simp] theorem footprint_oraM :
    footprint .oraM = { regs := [.a], flags := allFlags } := rfl
@[simp] theorem footprint_ori (d8 : Byte) :
    footprint (.ori d8) = { regs := [.a], flags := allFlags } := rfl
@[simp] theorem footprint_cmpR (src : Reg) :
    footprint (.cmpR src) = { flags := allFlags } := rfl
@[simp] theorem footprint_cmpM :
    footprint .cmpM = { flags := allFlags } := rfl
@[simp] theorem footprint_cpi (d8 : Byte) :
    footprint (.cpi d8) = { flags := allFlags } := rfl
@[simp] theorem footprint_dad (rp : Pair) :
    footprint (.dad rp) = { regs := [.h, .l], flags := [.cy, .v] } := rfl
@[simp] theorem footprint_dsub :
    footprint .dsub = { regs := [.h, .l], flags := allFlags, ext10 := true } := rfl
@[simp] theorem footprint_rlc :
    footprint .rlc = { regs := [.a], flags := [.cy] } := rfl
@[simp] theorem footprint_rrc :
    footprint .rrc = { regs := [.a], flags := [.cy] } := rfl
@[simp] theorem footprint_ral :
    footprint .ral = { regs := [.a], flags := [.cy] } := rfl
@[simp] theorem footprint_rar :
    footprint .rar = { regs := [.a], flags := [.cy] } := rfl
@[simp] theorem footprint_arhl :
    footprint .arhl = { regs := [.h, .l], flags := [.cy], ext10 := true } := rfl
@[simp] theorem footprint_rdel :
    footprint .rdel = { regs := [.d, .e], flags := [.cy, .v], ext10 := true } := rfl
@[simp] theorem footprint_inrR (dst : Reg) :
    footprint (.inrR dst) = { regs := [dst], flags := [.s, .z, .p, .ac, .v, .k] } := rfl
@[simp] theorem footprint_inrM :
    footprint .inrM = { flags := [.s, .z, .p, .ac, .v, .k] } := rfl
@[simp] theorem footprint_dcrR (dst : Reg) :
    footprint (.dcrR dst) = { regs := [dst], flags := [.s, .z, .p, .ac, .v, .k] } := rfl
@[simp] theorem footprint_dcrM :
    footprint .dcrM = { flags := [.s, .z, .p, .ac, .v, .k] } := rfl
@[simp] theorem footprint_inx (rp : Pair) :
    footprint (.inx rp) = { regs := pairRegs rp, sp := isSp rp, flags := [.k] } := rfl
@[simp] theorem footprint_dcx (rp : Pair) :
    footprint (.dcx rp) = { regs := pairRegs rp, sp := isSp rp, flags := [.k] } := rfl
@[simp] theorem footprint_daa :
    footprint .daa = { regs := [.a], flags := allFlags } := rfl
@[simp] theorem footprint_cma :
    footprint .cma = { regs := [.a], flagRow := true } := rfl
@[simp] theorem footprint_stc :
    footprint .stc = { flags := [.cy] } := rfl
@[simp] theorem footprint_cmc :
    footprint .cmc = { flags := [.cy] } := rfl
@[simp] theorem footprint_rim :
    footprint .rim = { regs := [.a] } := rfl
@[simp] theorem footprint_sim :
    footprint .sim = {} := rfl
@[simp] theorem footprint_nop :
    footprint .nop = {} := rfl
@[simp] theorem footprint_ei :
    footprint .ei = {} := rfl
@[simp] theorem footprint_di :
    footprint .di = {} := rfl

/-! ## What an instruction reads and writes on the bus -/

@[simp] theorem accesses_movRR (dst src : Reg) :
    accesses (.movRR dst src) s = [] := rfl
@[simp] theorem accesses_movRM (dst : Reg) :
    accesses (.movRM dst) s = [.read s.hl] := rfl
@[simp] theorem accesses_movMR (src : Reg) :
    accesses (.movMR src) s = [.write s.hl] := rfl
@[simp] theorem accesses_hlt :
    accesses .hlt s = [] := rfl
@[simp] theorem accesses_mviR (dst : Reg) (d8 : Byte) :
    accesses (.mviR dst d8) s = [] := rfl
@[simp] theorem accesses_mviM (d8 : Byte) :
    accesses (.mviM d8) s = [.write s.hl] := rfl
@[simp] theorem accesses_lxi (rp : Pair) (d16 : Word) :
    accesses (.lxi rp d16) s = [] := rfl
@[simp] theorem accesses_lda (a16 : Word) :
    accesses (.lda a16) s = [.read a16] := rfl
@[simp] theorem accesses_sta (a16 : Word) :
    accesses (.sta a16) s = [.write a16] := rfl
@[simp] theorem accesses_lhld (a16 : Word) :
    accesses (.lhld a16) s = [.read a16, .read (a16 + 1)] := rfl
@[simp] theorem accesses_shld (a16 : Word) :
    accesses (.shld a16) s = [.write a16, .write (a16 + 1)] := rfl
@[simp] theorem accesses_ldax (rp : Pair) :
    accesses (.ldax rp) s = [.read (s.pair rp)] := rfl
@[simp] theorem accesses_stax (rp : Pair) :
    accesses (.stax rp) s = [.write (s.pair rp)] := rfl
@[simp] theorem accesses_xchg :
    accesses .xchg s = [] := rfl
@[simp] theorem accesses_ldhi (d8 : Byte) :
    accesses (.ldhi d8) s = [] := rfl
@[simp] theorem accesses_ldsi (d8 : Byte) :
    accesses (.ldsi d8) s = [] := rfl
@[simp] theorem accesses_lhlx :
    accesses .lhlx s = [.read s.de, .read (s.de + 1)] := rfl
@[simp] theorem accesses_shlx :
    accesses .shlx s = [.write s.de, .write (s.de + 1)] := rfl
@[simp] theorem accesses_push (rp : Pair) :
    accesses (.push rp) s = pushes s := rfl
@[simp] theorem accesses_pushPsw :
    accesses .pushPsw s = pushes s := rfl
@[simp] theorem accesses_pop (rp : Pair) :
    accesses (.pop rp) s = pops s := rfl
@[simp] theorem accesses_popPsw :
    accesses .popPsw s = pops s := rfl
@[simp] theorem accesses_xthl :
    accesses .xthl s = [.read s.sp, .read (s.sp + 1), .write (s.sp + 1), .write s.sp] := rfl
@[simp] theorem accesses_sphl :
    accesses .sphl s = [] := rfl
@[simp] theorem accesses_jmp (a16 : Word) :
    accesses (.jmp a16) s = [] := rfl
@[simp] theorem accesses_jnz (a16 : Word) :
    accesses (.jnz a16) s = [] := rfl
@[simp] theorem accesses_jz (a16 : Word) :
    accesses (.jz a16) s = [] := rfl
@[simp] theorem accesses_jnc (a16 : Word) :
    accesses (.jnc a16) s = [] := rfl
@[simp] theorem accesses_jc (a16 : Word) :
    accesses (.jc a16) s = [] := rfl
@[simp] theorem accesses_jpo (a16 : Word) :
    accesses (.jpo a16) s = [] := rfl
@[simp] theorem accesses_jpe (a16 : Word) :
    accesses (.jpe a16) s = [] := rfl
@[simp] theorem accesses_jp (a16 : Word) :
    accesses (.jp a16) s = [] := rfl
@[simp] theorem accesses_jm (a16 : Word) :
    accesses (.jm a16) s = [] := rfl
@[simp] theorem accesses_pchl :
    accesses .pchl s = [] := rfl
@[simp] theorem accesses_call (a16 : Word) :
    accesses (.call a16) s = pushes s := rfl
@[simp] theorem accesses_cnz (a16 : Word) :
    accesses (.cnz a16) s = if condHolds .nz s.flags then pushes s else [] := rfl
@[simp] theorem accesses_cz (a16 : Word) :
    accesses (.cz a16) s = if condHolds .z s.flags then pushes s else [] := rfl
@[simp] theorem accesses_cnc (a16 : Word) :
    accesses (.cnc a16) s = if condHolds .nc s.flags then pushes s else [] := rfl
@[simp] theorem accesses_cc (a16 : Word) :
    accesses (.cc a16) s = if condHolds .c s.flags then pushes s else [] := rfl
@[simp] theorem accesses_cpo (a16 : Word) :
    accesses (.cpo a16) s = if condHolds .po s.flags then pushes s else [] := rfl
@[simp] theorem accesses_cpe (a16 : Word) :
    accesses (.cpe a16) s = if condHolds .pe s.flags then pushes s else [] := rfl
@[simp] theorem accesses_cp (a16 : Word) :
    accesses (.cp a16) s = if condHolds .p s.flags then pushes s else [] := rfl
@[simp] theorem accesses_cm (a16 : Word) :
    accesses (.cm a16) s = if condHolds .m s.flags then pushes s else [] := rfl
@[simp] theorem accesses_jnk (a16 : Word) :
    accesses (.jnk a16) s = [] := rfl
@[simp] theorem accesses_jk (a16 : Word) :
    accesses (.jk a16) s = [] := rfl
@[simp] theorem accesses_ret :
    accesses .ret s = pops s := rfl
@[simp] theorem accesses_rnz :
    accesses .rnz s = if condHolds .nz s.flags then pops s else [] := rfl
@[simp] theorem accesses_rz :
    accesses .rz s = if condHolds .z s.flags then pops s else [] := rfl
@[simp] theorem accesses_rnc :
    accesses .rnc s = if condHolds .nc s.flags then pops s else [] := rfl
@[simp] theorem accesses_rc :
    accesses .rc s = if condHolds .c s.flags then pops s else [] := rfl
@[simp] theorem accesses_rpo :
    accesses .rpo s = if condHolds .po s.flags then pops s else [] := rfl
@[simp] theorem accesses_rpe :
    accesses .rpe s = if condHolds .pe s.flags then pops s else [] := rfl
@[simp] theorem accesses_rp :
    accesses .rp s = if condHolds .p s.flags then pops s else [] := rfl
@[simp] theorem accesses_rm :
    accesses .rm s = if condHolds .m s.flags then pops s else [] := rfl
@[simp] theorem accesses_rst (n : BitVec 3) :
    accesses (.rst n) s = pushes s := rfl
@[simp] theorem accesses_rstv :
    accesses .rstv s = if s.flags.v then pushes s else [] := rfl
@[simp] theorem accesses_inPort (p8 : Byte) :
    accesses (.inPort p8) s = [.portIn p8] := rfl
@[simp] theorem accesses_outPort (p8 : Byte) :
    accesses (.outPort p8) s = [.portOut p8] := rfl
@[simp] theorem accesses_addR (src : Reg) :
    accesses (.addR src) s = [] := rfl
@[simp] theorem accesses_addM :
    accesses .addM s = [.read s.hl] := rfl
@[simp] theorem accesses_adi (d8 : Byte) :
    accesses (.adi d8) s = [] := rfl
@[simp] theorem accesses_adcR (src : Reg) :
    accesses (.adcR src) s = [] := rfl
@[simp] theorem accesses_adcM :
    accesses .adcM s = [.read s.hl] := rfl
@[simp] theorem accesses_aci (d8 : Byte) :
    accesses (.aci d8) s = [] := rfl
@[simp] theorem accesses_subR (src : Reg) :
    accesses (.subR src) s = [] := rfl
@[simp] theorem accesses_subM :
    accesses .subM s = [.read s.hl] := rfl
@[simp] theorem accesses_sui (d8 : Byte) :
    accesses (.sui d8) s = [] := rfl
@[simp] theorem accesses_sbbR (src : Reg) :
    accesses (.sbbR src) s = [] := rfl
@[simp] theorem accesses_sbbM :
    accesses .sbbM s = [.read s.hl] := rfl
@[simp] theorem accesses_sbi (d8 : Byte) :
    accesses (.sbi d8) s = [] := rfl
@[simp] theorem accesses_anaR (src : Reg) :
    accesses (.anaR src) s = [] := rfl
@[simp] theorem accesses_anaM :
    accesses .anaM s = [.read s.hl] := rfl
@[simp] theorem accesses_ani (d8 : Byte) :
    accesses (.ani d8) s = [] := rfl
@[simp] theorem accesses_xraR (src : Reg) :
    accesses (.xraR src) s = [] := rfl
@[simp] theorem accesses_xraM :
    accesses .xraM s = [.read s.hl] := rfl
@[simp] theorem accesses_xri (d8 : Byte) :
    accesses (.xri d8) s = [] := rfl
@[simp] theorem accesses_oraR (src : Reg) :
    accesses (.oraR src) s = [] := rfl
@[simp] theorem accesses_oraM :
    accesses .oraM s = [.read s.hl] := rfl
@[simp] theorem accesses_ori (d8 : Byte) :
    accesses (.ori d8) s = [] := rfl
@[simp] theorem accesses_cmpR (src : Reg) :
    accesses (.cmpR src) s = [] := rfl
@[simp] theorem accesses_cmpM :
    accesses .cmpM s = [.read s.hl] := rfl
@[simp] theorem accesses_cpi (d8 : Byte) :
    accesses (.cpi d8) s = [] := rfl
@[simp] theorem accesses_dad (rp : Pair) :
    accesses (.dad rp) s = [] := rfl
@[simp] theorem accesses_dsub :
    accesses .dsub s = [] := rfl
@[simp] theorem accesses_rlc :
    accesses .rlc s = [] := rfl
@[simp] theorem accesses_rrc :
    accesses .rrc s = [] := rfl
@[simp] theorem accesses_ral :
    accesses .ral s = [] := rfl
@[simp] theorem accesses_rar :
    accesses .rar s = [] := rfl
@[simp] theorem accesses_arhl :
    accesses .arhl s = [] := rfl
@[simp] theorem accesses_rdel :
    accesses .rdel s = [] := rfl
@[simp] theorem accesses_inrR (dst : Reg) :
    accesses (.inrR dst) s = [] := rfl
@[simp] theorem accesses_inrM :
    accesses .inrM s = [.read s.hl, .write s.hl] := rfl
@[simp] theorem accesses_dcrR (dst : Reg) :
    accesses (.dcrR dst) s = [] := rfl
@[simp] theorem accesses_dcrM :
    accesses .dcrM s = [.read s.hl, .write s.hl] := rfl
@[simp] theorem accesses_inx (rp : Pair) :
    accesses (.inx rp) s = [] := rfl
@[simp] theorem accesses_dcx (rp : Pair) :
    accesses (.dcx rp) s = [] := rfl
@[simp] theorem accesses_daa :
    accesses .daa s = [] := rfl
@[simp] theorem accesses_cma :
    accesses .cma s = [] := rfl
@[simp] theorem accesses_stc :
    accesses .stc s = [] := rfl
@[simp] theorem accesses_cmc :
    accesses .cmc s = [] := rfl
@[simp] theorem accesses_rim :
    accesses .rim s = [] := rfl
@[simp] theorem accesses_sim :
    accesses .sim s = [] := rfl
@[simp] theorem accesses_nop :
    accesses .nop s = [] := rfl
@[simp] theorem accesses_ei :
    accesses .ei s = [] := rfl
@[simp] theorem accesses_di :
    accesses .di s = [] := rfl

/-! ## What an instruction stores to -/

@[simp] theorem storesOf_movRR (dst src : Reg) :
    storesOf (.movRR dst src) s = [] := rfl
@[simp] theorem storesOf_movRM (dst : Reg) :
    storesOf (.movRM dst) s = [] := rfl
@[simp] theorem storesOf_movMR (src : Reg) :
    storesOf (.movMR src) s = [s.hl] := rfl
@[simp] theorem storesOf_hlt :
    storesOf .hlt s = [] := rfl
@[simp] theorem storesOf_mviR (dst : Reg) (d8 : Byte) :
    storesOf (.mviR dst d8) s = [] := rfl
@[simp] theorem storesOf_mviM (d8 : Byte) :
    storesOf (.mviM d8) s = [s.hl] := rfl
@[simp] theorem storesOf_lxi (rp : Pair) (d16 : Word) :
    storesOf (.lxi rp d16) s = [] := rfl
@[simp] theorem storesOf_lda (a16 : Word) :
    storesOf (.lda a16) s = [] := rfl
@[simp] theorem storesOf_sta (a16 : Word) :
    storesOf (.sta a16) s = [a16] := rfl
@[simp] theorem storesOf_lhld (a16 : Word) :
    storesOf (.lhld a16) s = [] := rfl
@[simp] theorem storesOf_shld (a16 : Word) :
    storesOf (.shld a16) s = [a16, a16 + 1] := rfl
@[simp] theorem storesOf_ldax (rp : Pair) :
    storesOf (.ldax rp) s = [] := rfl
@[simp] theorem storesOf_stax (rp : Pair) :
    storesOf (.stax rp) s = [s.pair rp] := rfl
@[simp] theorem storesOf_xchg :
    storesOf .xchg s = [] := rfl
@[simp] theorem storesOf_ldhi (d8 : Byte) :
    storesOf (.ldhi d8) s = [] := rfl
@[simp] theorem storesOf_ldsi (d8 : Byte) :
    storesOf (.ldsi d8) s = [] := rfl
@[simp] theorem storesOf_lhlx :
    storesOf .lhlx s = [] := rfl
@[simp] theorem storesOf_shlx :
    storesOf .shlx s = [s.de, s.de + 1] := rfl
@[simp] theorem storesOf_push (rp : Pair) :
    storesOf (.push rp) s = [s.sp - 1, s.sp - 2] := rfl
@[simp] theorem storesOf_pushPsw :
    storesOf .pushPsw s = [s.sp - 1, s.sp - 2] := rfl
@[simp] theorem storesOf_pop (rp : Pair) :
    storesOf (.pop rp) s = [] := rfl
@[simp] theorem storesOf_popPsw :
    storesOf .popPsw s = [] := rfl
@[simp] theorem storesOf_xthl :
    storesOf .xthl s = [s.sp + 1, s.sp] := rfl
@[simp] theorem storesOf_sphl :
    storesOf .sphl s = [] := rfl
@[simp] theorem storesOf_jmp (a16 : Word) :
    storesOf (.jmp a16) s = [] := rfl
@[simp] theorem storesOf_jnz (a16 : Word) :
    storesOf (.jnz a16) s = [] := rfl
@[simp] theorem storesOf_jz (a16 : Word) :
    storesOf (.jz a16) s = [] := rfl
@[simp] theorem storesOf_jnc (a16 : Word) :
    storesOf (.jnc a16) s = [] := rfl
@[simp] theorem storesOf_jc (a16 : Word) :
    storesOf (.jc a16) s = [] := rfl
@[simp] theorem storesOf_jpo (a16 : Word) :
    storesOf (.jpo a16) s = [] := rfl
@[simp] theorem storesOf_jpe (a16 : Word) :
    storesOf (.jpe a16) s = [] := rfl
@[simp] theorem storesOf_jp (a16 : Word) :
    storesOf (.jp a16) s = [] := rfl
@[simp] theorem storesOf_jm (a16 : Word) :
    storesOf (.jm a16) s = [] := rfl
@[simp] theorem storesOf_pchl :
    storesOf .pchl s = [] := rfl
@[simp] theorem storesOf_call (a16 : Word) :
    storesOf (.call a16) s = [s.sp - 1, s.sp - 2] := rfl
@[simp] theorem storesOf_cnz (a16 : Word) :
    storesOf (.cnz a16) s = if condHolds .nz s.flags then [s.sp - 1, s.sp - 2] else [] := by
  simp only [storesOf, accesses_cnz]; split <;> rfl
@[simp] theorem storesOf_cz (a16 : Word) :
    storesOf (.cz a16) s = if condHolds .z s.flags then [s.sp - 1, s.sp - 2] else [] := by
  simp only [storesOf, accesses_cz]; split <;> rfl
@[simp] theorem storesOf_cnc (a16 : Word) :
    storesOf (.cnc a16) s = if condHolds .nc s.flags then [s.sp - 1, s.sp - 2] else [] := by
  simp only [storesOf, accesses_cnc]; split <;> rfl
@[simp] theorem storesOf_cc (a16 : Word) :
    storesOf (.cc a16) s = if condHolds .c s.flags then [s.sp - 1, s.sp - 2] else [] := by
  simp only [storesOf, accesses_cc]; split <;> rfl
@[simp] theorem storesOf_cpo (a16 : Word) :
    storesOf (.cpo a16) s = if condHolds .po s.flags then [s.sp - 1, s.sp - 2] else [] := by
  simp only [storesOf, accesses_cpo]; split <;> rfl
@[simp] theorem storesOf_cpe (a16 : Word) :
    storesOf (.cpe a16) s = if condHolds .pe s.flags then [s.sp - 1, s.sp - 2] else [] := by
  simp only [storesOf, accesses_cpe]; split <;> rfl
@[simp] theorem storesOf_cp (a16 : Word) :
    storesOf (.cp a16) s = if condHolds .p s.flags then [s.sp - 1, s.sp - 2] else [] := by
  simp only [storesOf, accesses_cp]; split <;> rfl
@[simp] theorem storesOf_cm (a16 : Word) :
    storesOf (.cm a16) s = if condHolds .m s.flags then [s.sp - 1, s.sp - 2] else [] := by
  simp only [storesOf, accesses_cm]; split <;> rfl
@[simp] theorem storesOf_jnk (a16 : Word) :
    storesOf (.jnk a16) s = [] := rfl
@[simp] theorem storesOf_jk (a16 : Word) :
    storesOf (.jk a16) s = [] := rfl
@[simp] theorem storesOf_ret :
    storesOf .ret s = [] := rfl
@[simp] theorem storesOf_rnz :
    storesOf .rnz s = [] := by
  simp only [storesOf, accesses_rnz]; split <;> rfl
@[simp] theorem storesOf_rz :
    storesOf .rz s = [] := by
  simp only [storesOf, accesses_rz]; split <;> rfl
@[simp] theorem storesOf_rnc :
    storesOf .rnc s = [] := by
  simp only [storesOf, accesses_rnc]; split <;> rfl
@[simp] theorem storesOf_rc :
    storesOf .rc s = [] := by
  simp only [storesOf, accesses_rc]; split <;> rfl
@[simp] theorem storesOf_rpo :
    storesOf .rpo s = [] := by
  simp only [storesOf, accesses_rpo]; split <;> rfl
@[simp] theorem storesOf_rpe :
    storesOf .rpe s = [] := by
  simp only [storesOf, accesses_rpe]; split <;> rfl
@[simp] theorem storesOf_rp :
    storesOf .rp s = [] := by
  simp only [storesOf, accesses_rp]; split <;> rfl
@[simp] theorem storesOf_rm :
    storesOf .rm s = [] := by
  simp only [storesOf, accesses_rm]; split <;> rfl
@[simp] theorem storesOf_rst (n : BitVec 3) :
    storesOf (.rst n) s = [s.sp - 1, s.sp - 2] := rfl
@[simp] theorem storesOf_rstv :
    storesOf .rstv s = if s.flags.v then [s.sp - 1, s.sp - 2] else [] := by
  simp only [storesOf, accesses_rstv]; split <;> rfl
@[simp] theorem storesOf_inPort (p8 : Byte) :
    storesOf (.inPort p8) s = [] := rfl
@[simp] theorem storesOf_outPort (p8 : Byte) :
    storesOf (.outPort p8) s = [] := rfl
@[simp] theorem storesOf_addR (src : Reg) :
    storesOf (.addR src) s = [] := rfl
@[simp] theorem storesOf_addM :
    storesOf .addM s = [] := rfl
@[simp] theorem storesOf_adi (d8 : Byte) :
    storesOf (.adi d8) s = [] := rfl
@[simp] theorem storesOf_adcR (src : Reg) :
    storesOf (.adcR src) s = [] := rfl
@[simp] theorem storesOf_adcM :
    storesOf .adcM s = [] := rfl
@[simp] theorem storesOf_aci (d8 : Byte) :
    storesOf (.aci d8) s = [] := rfl
@[simp] theorem storesOf_subR (src : Reg) :
    storesOf (.subR src) s = [] := rfl
@[simp] theorem storesOf_subM :
    storesOf .subM s = [] := rfl
@[simp] theorem storesOf_sui (d8 : Byte) :
    storesOf (.sui d8) s = [] := rfl
@[simp] theorem storesOf_sbbR (src : Reg) :
    storesOf (.sbbR src) s = [] := rfl
@[simp] theorem storesOf_sbbM :
    storesOf .sbbM s = [] := rfl
@[simp] theorem storesOf_sbi (d8 : Byte) :
    storesOf (.sbi d8) s = [] := rfl
@[simp] theorem storesOf_anaR (src : Reg) :
    storesOf (.anaR src) s = [] := rfl
@[simp] theorem storesOf_anaM :
    storesOf .anaM s = [] := rfl
@[simp] theorem storesOf_ani (d8 : Byte) :
    storesOf (.ani d8) s = [] := rfl
@[simp] theorem storesOf_xraR (src : Reg) :
    storesOf (.xraR src) s = [] := rfl
@[simp] theorem storesOf_xraM :
    storesOf .xraM s = [] := rfl
@[simp] theorem storesOf_xri (d8 : Byte) :
    storesOf (.xri d8) s = [] := rfl
@[simp] theorem storesOf_oraR (src : Reg) :
    storesOf (.oraR src) s = [] := rfl
@[simp] theorem storesOf_oraM :
    storesOf .oraM s = [] := rfl
@[simp] theorem storesOf_ori (d8 : Byte) :
    storesOf (.ori d8) s = [] := rfl
@[simp] theorem storesOf_cmpR (src : Reg) :
    storesOf (.cmpR src) s = [] := rfl
@[simp] theorem storesOf_cmpM :
    storesOf .cmpM s = [] := rfl
@[simp] theorem storesOf_cpi (d8 : Byte) :
    storesOf (.cpi d8) s = [] := rfl
@[simp] theorem storesOf_dad (rp : Pair) :
    storesOf (.dad rp) s = [] := rfl
@[simp] theorem storesOf_dsub :
    storesOf .dsub s = [] := rfl
@[simp] theorem storesOf_rlc :
    storesOf .rlc s = [] := rfl
@[simp] theorem storesOf_rrc :
    storesOf .rrc s = [] := rfl
@[simp] theorem storesOf_ral :
    storesOf .ral s = [] := rfl
@[simp] theorem storesOf_rar :
    storesOf .rar s = [] := rfl
@[simp] theorem storesOf_arhl :
    storesOf .arhl s = [] := rfl
@[simp] theorem storesOf_rdel :
    storesOf .rdel s = [] := rfl
@[simp] theorem storesOf_inrR (dst : Reg) :
    storesOf (.inrR dst) s = [] := rfl
@[simp] theorem storesOf_inrM :
    storesOf .inrM s = [s.hl] := rfl
@[simp] theorem storesOf_dcrR (dst : Reg) :
    storesOf (.dcrR dst) s = [] := rfl
@[simp] theorem storesOf_dcrM :
    storesOf .dcrM s = [s.hl] := rfl
@[simp] theorem storesOf_inx (rp : Pair) :
    storesOf (.inx rp) s = [] := rfl
@[simp] theorem storesOf_dcx (rp : Pair) :
    storesOf (.dcx rp) s = [] := rfl
@[simp] theorem storesOf_daa :
    storesOf .daa s = [] := rfl
@[simp] theorem storesOf_cma :
    storesOf .cma s = [] := rfl
@[simp] theorem storesOf_stc :
    storesOf .stc s = [] := rfl
@[simp] theorem storesOf_cmc :
    storesOf .cmc s = [] := rfl
@[simp] theorem storesOf_rim :
    storesOf .rim s = [] := rfl
@[simp] theorem storesOf_sim :
    storesOf .sim s = [] := rfl
@[simp] theorem storesOf_nop :
    storesOf .nop s = [] := rfl
@[simp] theorem storesOf_ei :
    storesOf .ei s = [] := rfl
@[simp] theorem storesOf_di :
    storesOf .di s = [] := rfl

end Sys2Proof.Machine
end

