-- ==== Sys2Proof/Laws/Memory.lean ====
section
/-! SUPPORT. The laws of memory: reading back, leaving other addresses alone, and the canonical form. -/

namespace Sys2Proof.Machine

theorem Memory.get_erase_same (m : Memory) (a : Nat) : (m.erase a).get a = Memory.unlisted a := by
  induction m with
  | nil => rfl
  | cons c rest ih =>
    obtain ⟨k, v⟩ := c
    by_cases h : k = a <;> simp [Memory.erase, Memory.get, h, ih]

theorem Memory.get_erase_ne (m : Memory) (a b : Nat) (h : b ≠ a) : (m.erase a).get b = m.get b := by
  induction m with
  | nil => rfl
  | cons c rest ih =>
    obtain ⟨k, v⟩ := c
    by_cases hk : k = a
    · subst hk
      simp [Memory.erase, Memory.get, ih, Ne.symm h]
    · simp [Memory.erase, Memory.get, hk, ih]

theorem Memory.get_insert_ne (m : Memory) (a b : Nat) (v : Byte) (h : b ≠ a) :
    (m.insert a v).get b = m.get b := by
  induction m with
  | nil => simp [Memory.insert, Memory.get, Ne.symm h]
  | cons c rest ih =>
    obtain ⟨k, w⟩ := c
    by_cases hk : a < k
    · simp [Memory.insert, Memory.get, hk, Ne.symm h]
    · simp [Memory.insert, Memory.get, hk, ih]

theorem Memory.get_insert_erase (m : Memory) (a : Nat) (v : Byte) :
    ((m.erase a).insert a v).get a = v := by
  induction m with
  | nil => simp [Memory.erase, Memory.insert, Memory.get]
  | cons c rest ih =>
    obtain ⟨k, w⟩ := c
    by_cases hk : k = a
    · simp [Memory.erase, hk, ih]
    · by_cases hl : a < k <;> simp [Memory.erase, Memory.insert, Memory.get, hk, hl, ih]

/-- A byte written reads back. -/
@[simp] theorem Memory.get_set_same (m : Memory) (a : Nat) (v : Byte) : (m.set a v).get a = v := by
  unfold Memory.set
  split
  · next h => rw [Memory.get_erase_same, h]
  · exact Memory.get_insert_erase m a v

/-- A write leaves every other address alone. -/
theorem Memory.get_set_ne (m : Memory) (a b : Nat) (v : Byte) (h : b ≠ a) :
    (m.set a v).get b = m.get b := by
  unfold Memory.set
  split
  · exact Memory.get_erase_ne m a b h
  · rw [Memory.get_insert_ne _ _ _ _ h, Memory.get_erase_ne _ _ _ h]

theorem Memory.wfFrom_mono {m : Memory} {lo lo' : Nat} (h : lo' ≤ lo) (w : Memory.wfFrom lo m = true) :
    Memory.wfFrom lo' m = true := by
  cases m with
  | nil => rfl
  | cons c rest =>
    obtain ⟨k, v⟩ := c
    simp only [Memory.wfFrom, Bool.and_eq_true, decide_eq_true_eq] at w ⊢
    exact ⟨⟨⟨by omega, w.1.1.2⟩, w.1.2⟩, w.2⟩

theorem Memory.wfFrom_erase {m : Memory} {lo : Nat} (a : Nat) (w : Memory.wfFrom lo m = true) :
    Memory.wfFrom lo (m.erase a) = true := by
  induction m generalizing lo with
  | nil => rfl
  | cons c rest ih =>
    obtain ⟨k, v⟩ := c
    simp only [Memory.wfFrom, Bool.and_eq_true, decide_eq_true_eq] at w
    by_cases hk : k = a
    · simp only [Memory.erase, hk, if_true]
      exact Memory.wfFrom_mono (by omega) (ih w.2)
    · simp only [Memory.erase, hk, if_false, Memory.wfFrom, Bool.and_eq_true, decide_eq_true_eq]
      exact ⟨w.1, ih w.2⟩

theorem Memory.wfFrom_insert_erase {m : Memory} {lo a : Nat} {v : Byte} (ha : lo ≤ a)
    (ha' : a < 65536) (hv : v ≠ Memory.unlisted a) (w : Memory.wfFrom lo m = true) :
    Memory.wfFrom lo ((m.erase a).insert a v) = true := by
  induction m generalizing lo with
  | nil => simp [Memory.erase, Memory.insert, Memory.wfFrom, ha, ha', hv]
  | cons c rest ih =>
    obtain ⟨k, u⟩ := c
    simp only [Memory.wfFrom, Bool.and_eq_true, decide_eq_true_eq] at w
    obtain ⟨⟨⟨hlo, hk⟩, hu⟩, hr⟩ := w
    by_cases hka : k = a
    · subst hka
      simp only [Memory.erase, if_true]
      exact ih ha (Memory.wfFrom_mono (by omega) hr)
    · by_cases hl : a < k
      · simp only [Memory.erase, hka, if_false, Memory.insert, hl, if_true, Memory.wfFrom,
          Bool.and_eq_true, decide_eq_true_eq]
        exact ⟨⟨⟨ha, ha'⟩, hv⟩, ⟨⟨by omega, hk⟩, hu⟩, Memory.wfFrom_erase a hr⟩
      · simp only [Memory.erase, hka, if_false, Memory.insert, hl, Memory.wfFrom,
          Bool.and_eq_true, decide_eq_true_eq]
        exact ⟨⟨⟨hlo, hk⟩, hu⟩, ih (by omega) hr⟩

/-- A write keeps the canonical form. -/
theorem Memory.wf_set {m : Memory} {a : Nat} (v : Byte) (ha : a < 65536) (w : m.wf = true) :
    (m.set a v).wf = true := by
  unfold Memory.set
  split
  · exact Memory.wfFrom_erase a w
  · next h => exact Memory.wfFrom_insert_erase (Nat.zero_le a) ha h w

/-- Memory right after reset has the canonical form. -/
theorem Memory.wf_reset : State.reset.mem.wf = true := rfl

end Sys2Proof.Machine
end

