-- ==== Sys2Proof/Laws/State.lean ====
section
/-! SUPPORT. One lemma per field per update: what each named operation leaves alone. -/

namespace Sys2Proof.Machine

variable (s : State)

/-! ## Plain updates -/

@[simp] theorem setReg_flags (r : Reg) (v : Byte) : (s.setReg r v).flags = s.flags := rfl
@[simp] theorem setReg_sp (r : Reg) (v : Byte) : (s.setReg r v).sp = s.sp := rfl
@[simp] theorem setReg_pc (r : Reg) (v : Byte) : (s.setReg r v).pc = s.pc := rfl
@[simp] theorem setReg_intr (r : Reg) (v : Byte) : (s.setReg r v).intr = s.intr := rfl
@[simp] theorem setReg_halted (r : Reg) (v : Byte) : (s.setReg r v).halted = s.halted := rfl
@[simp] theorem setReg_tfd (r : Reg) (v : Byte) : (s.setReg r v).tfd = s.tfd := rfl
@[simp] theorem setReg_mem (r : Reg) (v : Byte) : (s.setReg r v).mem = s.mem := rfl
@[simp] theorem setReg_env (r : Reg) (v : Byte) : (s.setReg r v).env = s.env := rfl
@[simp] theorem setReg_params (r : Reg) (v : Byte) : (s.setReg r v).params = s.params := rfl

@[simp] theorem setPair_flags (q : Pair) (v : Word) : (s.setPair q v).flags = s.flags :=
    by cases q <;> rfl
@[simp] theorem setPair_pc (q : Pair) (v : Word) : (s.setPair q v).pc = s.pc := by cases q <;> rfl
@[simp] theorem setPair_intr (q : Pair) (v : Word) : (s.setPair q v).intr = s.intr :=
    by cases q <;> rfl
@[simp] theorem setPair_halted (q : Pair) (v : Word) : (s.setPair q v).halted = s.halted :=
    by cases q <;> rfl
@[simp] theorem setPair_tfd (q : Pair) (v : Word) : (s.setPair q v).tfd = s.tfd :=
    by cases q <;> rfl
@[simp] theorem setPair_mem (q : Pair) (v : Word) : (s.setPair q v).mem = s.mem :=
    by cases q <;> rfl
@[simp] theorem setPair_env (q : Pair) (v : Word) : (s.setPair q v).env = s.env :=
    by cases q <;> rfl
@[simp] theorem setPair_params (q : Pair) (v : Word) : (s.setPair q v).params = s.params :=
    by cases q <;> rfl

@[simp] theorem setPc_regs (v : Word) : (s.setPc v).regs = s.regs := rfl
@[simp] theorem setPc_flags (v : Word) : (s.setPc v).flags = s.flags := rfl
@[simp] theorem setPc_sp (v : Word) : (s.setPc v).sp = s.sp := rfl
@[simp] theorem setPc_intr (v : Word) : (s.setPc v).intr = s.intr := rfl
@[simp] theorem setPc_halted (v : Word) : (s.setPc v).halted = s.halted := rfl
@[simp] theorem setPc_tfd (v : Word) : (s.setPc v).tfd = s.tfd := rfl
@[simp] theorem setPc_mem (v : Word) : (s.setPc v).mem = s.mem := rfl
@[simp] theorem setPc_env (v : Word) : (s.setPc v).env = s.env := rfl
@[simp] theorem setPc_params (v : Word) : (s.setPc v).params = s.params := rfl

@[simp] theorem setPc_pc (v : Word) : (s.setPc v).pc = v := rfl
@[simp] theorem log_regs (e : Event) : (s.log e).regs = s.regs := rfl
@[simp] theorem log_flags (e : Event) : (s.log e).flags = s.flags := rfl
@[simp] theorem log_sp (e : Event) : (s.log e).sp = s.sp := rfl
@[simp] theorem log_pc (e : Event) : (s.log e).pc = s.pc := rfl
@[simp] theorem log_intr (e : Event) : (s.log e).intr = s.intr := rfl
@[simp] theorem log_halted (e : Event) : (s.log e).halted = s.halted := rfl
@[simp] theorem log_tfd (e : Event) : (s.log e).tfd = s.tfd := rfl
@[simp] theorem log_mem (e : Event) : (s.log e).mem = s.mem := rfl
@[simp] theorem log_params (e : Event) : (s.log e).params = s.params := rfl
@[simp] theorem log_env_pins (e : Event) : (s.log e).env.pins = s.env.pins := rfl
@[simp] theorem log_env_samples (e : Event) : (s.log e).env.samples = s.env.samples := rfl
@[simp] theorem log_env_busIn (e : Event) : (s.log e).env.busIn = s.env.busIn := rfl
@[simp] theorem log_env_holds (e : Event) : (s.log e).env.holds = s.env.holds := rfl
@[simp] theorem log_env_fresh (e : Event) : (s.log e).env.fresh = s.env.fresh := rfl

@[simp] theorem log_env_trace (e : Event) : (s.log e).env.trace = e :: s.env.trace := rfl
@[simp] theorem nextFresh_regs : (s.nextFresh).regs = s.regs := rfl
@[simp] theorem nextFresh_flags : (s.nextFresh).flags = s.flags := rfl
@[simp] theorem nextFresh_sp : (s.nextFresh).sp = s.sp := rfl
@[simp] theorem nextFresh_pc : (s.nextFresh).pc = s.pc := rfl
@[simp] theorem nextFresh_intr : (s.nextFresh).intr = s.intr := rfl
@[simp] theorem nextFresh_halted : (s.nextFresh).halted = s.halted := rfl
@[simp] theorem nextFresh_tfd : (s.nextFresh).tfd = s.tfd := rfl
@[simp] theorem nextFresh_mem : (s.nextFresh).mem = s.mem := rfl
@[simp] theorem nextFresh_params : (s.nextFresh).params = s.params := rfl
@[simp] theorem nextFresh_env_pins : (s.nextFresh).env.pins = s.env.pins := rfl
@[simp] theorem nextFresh_env_samples : (s.nextFresh).env.samples = s.env.samples := rfl
@[simp] theorem nextFresh_env_busIn : (s.nextFresh).env.busIn = s.env.busIn := rfl
@[simp] theorem nextFresh_env_trace : (s.nextFresh).env.trace = s.env.trace := rfl
@[simp] theorem nextFresh_env_holds : (s.nextFresh).env.holds = s.env.holds := rfl

@[simp] theorem poke_regs (a : Word) (v : Byte) : (s.poke a v).regs = s.regs := rfl
@[simp] theorem poke_flags (a : Word) (v : Byte) : (s.poke a v).flags = s.flags := rfl
@[simp] theorem poke_sp (a : Word) (v : Byte) : (s.poke a v).sp = s.sp := rfl
@[simp] theorem poke_pc (a : Word) (v : Byte) : (s.poke a v).pc = s.pc := rfl
@[simp] theorem poke_intr (a : Word) (v : Byte) : (s.poke a v).intr = s.intr := rfl
@[simp] theorem poke_halted (a : Word) (v : Byte) : (s.poke a v).halted = s.halted := rfl
@[simp] theorem poke_tfd (a : Word) (v : Byte) : (s.poke a v).tfd = s.tfd := rfl
@[simp] theorem poke_env (a : Word) (v : Byte) : (s.poke a v).env = s.env := rfl
@[simp] theorem poke_params (a : Word) (v : Byte) : (s.poke a v).params = s.params := rfl

@[simp] theorem setCy_regs (x : Bool) : (s.setCy x).regs = s.regs := rfl
@[simp] theorem setCy_sp (x : Bool) : (s.setCy x).sp = s.sp := rfl
@[simp] theorem setCy_pc (x : Bool) : (s.setCy x).pc = s.pc := rfl
@[simp] theorem setCy_intr (x : Bool) : (s.setCy x).intr = s.intr := rfl
@[simp] theorem setCy_halted (x : Bool) : (s.setCy x).halted = s.halted := rfl
@[simp] theorem setCy_tfd (x : Bool) : (s.setCy x).tfd = s.tfd := rfl
@[simp] theorem setCy_mem (x : Bool) : (s.setCy x).mem = s.mem := rfl
@[simp] theorem setCy_env (x : Bool) : (s.setCy x).env = s.env := rfl
@[simp] theorem setCy_params (x : Bool) : (s.setCy x).params = s.params := rfl

@[simp] theorem setCy_flags (x : Bool) : (s.setCy x).flags = { s.flags with cy := x } := rfl
@[simp] theorem setSzp_regs (v : Byte) : (s.setSzp v).regs = s.regs := rfl
@[simp] theorem setSzp_sp (v : Byte) : (s.setSzp v).sp = s.sp := rfl
@[simp] theorem setSzp_pc (v : Byte) : (s.setSzp v).pc = s.pc := rfl
@[simp] theorem setSzp_intr (v : Byte) : (s.setSzp v).intr = s.intr := rfl
@[simp] theorem setSzp_halted (v : Byte) : (s.setSzp v).halted = s.halted := rfl
@[simp] theorem setSzp_tfd (v : Byte) : (s.setSzp v).tfd = s.tfd := rfl
@[simp] theorem setSzp_mem (v : Byte) : (s.setSzp v).mem = s.mem := rfl
@[simp] theorem setSzp_env (v : Byte) : (s.setSzp v).env = s.env := rfl
@[simp] theorem setSzp_params (v : Byte) : (s.setSzp v).params = s.params := rfl

@[simp] theorem setSzp_flags (v : Byte) : (s.setSzp v).flags = { s.flags with s := v.getLsbD 7, z := decide (v = 0), p := parity v } :=
    rfl
@[simp] theorem setAc_regs (x : Bool) : (s.setAc x).regs = s.regs := rfl
@[simp] theorem setAc_sp (x : Bool) : (s.setAc x).sp = s.sp := rfl
@[simp] theorem setAc_pc (x : Bool) : (s.setAc x).pc = s.pc := rfl
@[simp] theorem setAc_intr (x : Bool) : (s.setAc x).intr = s.intr := rfl
@[simp] theorem setAc_halted (x : Bool) : (s.setAc x).halted = s.halted := rfl
@[simp] theorem setAc_tfd (x : Bool) : (s.setAc x).tfd = s.tfd := rfl
@[simp] theorem setAc_mem (x : Bool) : (s.setAc x).mem = s.mem := rfl
@[simp] theorem setAc_env (x : Bool) : (s.setAc x).env = s.env := rfl
@[simp] theorem setAc_params (x : Bool) : (s.setAc x).params = s.params := rfl

@[simp] theorem setAc_flags (x : Bool) : (s.setAc x).flags = { s.flags with ac := x } := rfl
@[simp] theorem enterHandler_regs : (s.enterHandler).regs = s.regs := rfl
@[simp] theorem enterHandler_flags : (s.enterHandler).flags = s.flags := rfl
@[simp] theorem enterHandler_sp : (s.enterHandler).sp = s.sp := rfl
@[simp] theorem enterHandler_pc : (s.enterHandler).pc = s.pc := rfl
@[simp] theorem enterHandler_tfd : (s.enterHandler).tfd = s.tfd := rfl
@[simp] theorem enterHandler_mem : (s.enterHandler).mem = s.mem := rfl
@[simp] theorem enterHandler_env : (s.enterHandler).env = s.env := rfl
@[simp] theorem enterHandler_params : (s.enterHandler).params = s.params := rfl

@[simp] theorem enterHandler_halted : s.enterHandler.halted = false := rfl
@[simp] theorem enterHandler_intr : s.enterHandler.intr = { s.intr with ie := false, eiDelay := false } :=
    rfl
@[simp] theorem clearEiDelay_regs : (s.clearEiDelay).regs = s.regs := rfl
@[simp] theorem clearEiDelay_flags : (s.clearEiDelay).flags = s.flags := rfl
@[simp] theorem clearEiDelay_sp : (s.clearEiDelay).sp = s.sp := rfl
@[simp] theorem clearEiDelay_pc : (s.clearEiDelay).pc = s.pc := rfl
@[simp] theorem clearEiDelay_halted : (s.clearEiDelay).halted = s.halted := rfl
@[simp] theorem clearEiDelay_tfd : (s.clearEiDelay).tfd = s.tfd := rfl
@[simp] theorem clearEiDelay_mem : (s.clearEiDelay).mem = s.mem := rfl
@[simp] theorem clearEiDelay_env : (s.clearEiDelay).env = s.env := rfl
@[simp] theorem clearEiDelay_params : (s.clearEiDelay).params = s.params := rfl

@[simp] theorem clearEiDelay_intr : s.clearEiDelay.intr = { s.intr with eiDelay := false } := rfl
@[simp] theorem atSample_regs : (s.atSample).regs = s.regs := rfl
@[simp] theorem atSample_flags : (s.atSample).flags = s.flags := rfl
@[simp] theorem atSample_sp : (s.atSample).sp = s.sp := rfl
@[simp] theorem atSample_pc : (s.atSample).pc = s.pc := rfl
@[simp] theorem atSample_intr : (s.atSample).intr = s.intr := rfl
@[simp] theorem atSample_halted : (s.atSample).halted = s.halted := rfl
@[simp] theorem atSample_tfd : (s.atSample).tfd = s.tfd := rfl
@[simp] theorem atSample_mem : (s.atSample).mem = s.mem := rfl
@[simp] theorem atSample_params : (s.atSample).params = s.params := rfl
@[simp] theorem atSample_env_busIn : (s.atSample).env.busIn = s.env.busIn := rfl
@[simp] theorem atSample_env_trace : (s.atSample).env.trace = s.env.trace := rfl
@[simp] theorem atSample_env_holds : (s.atSample).env.holds = s.env.holds := rfl
@[simp] theorem atSample_env_fresh : (s.atSample).env.fresh = s.env.fresh := rfl

@[simp] theorem latchEdges_regs (x : Sample) : (latchEdges x s).regs = s.regs := rfl
@[simp] theorem latchEdges_flags (x : Sample) : (latchEdges x s).flags = s.flags := rfl
@[simp] theorem latchEdges_sp (x : Sample) : (latchEdges x s).sp = s.sp := rfl
@[simp] theorem latchEdges_pc (x : Sample) : (latchEdges x s).pc = s.pc := rfl
@[simp] theorem latchEdges_halted (x : Sample) : (latchEdges x s).halted = s.halted := rfl
@[simp] theorem latchEdges_tfd (x : Sample) : (latchEdges x s).tfd = s.tfd := rfl
@[simp] theorem latchEdges_mem (x : Sample) : (latchEdges x s).mem = s.mem := rfl
@[simp] theorem latchEdges_env (x : Sample) : (latchEdges x s).env = s.env := rfl
@[simp] theorem latchEdges_params (x : Sample) : (latchEdges x s).params = s.params := rfl


/-! ## Registers and pairs -/

@[simp] theorem reg_setReg (r q : Reg) (v : Byte) :
    (s.setReg r v).reg q = if q = r then v else s.reg q := by cases r <;> cases q <;> rfl

@[simp] theorem hiByte_mkWord (h l : Byte) : hiByte (mkWord h l) = h := by
  unfold hiByte mkWord; exact BitVec.extractLsb'_append_eq_left

@[simp] theorem loByte_mkWord (h l : Byte) : loByte (mkWord h l) = l := by
  unfold loByte mkWord; exact BitVec.extractLsb'_append_eq_right

@[simp] theorem mkWord_hiByte_loByte (v : Word) : mkWord (hiByte v) (loByte v) = v := by
  unfold mkWord hiByte loByte
  ext i hi
  simp only [BitVec.getElem_append, BitVec.getElem_extractLsb']
  split <;> simp_all [BitVec.getLsbD_eq_getElem]

@[simp] theorem pair_setPair (q : Pair) (v : Word) : (s.setPair q v).pair q = v := by
  cases q <;> simp [State.setPair, State.pair, State.bc, State.de, State.hl]

theorem reg_setPair_of_notMem (q : Pair) (v : Word) (r : Reg)
    (h : q = .bc → r ≠ .b ∧ r ≠ .c) (h' : q = .de → r ≠ .d ∧ r ≠ .e)
    (h'' : q = .hl → r ≠ .h ∧ r ≠ .l) : (s.setPair q v).reg r = s.reg r := by
  cases q <;> cases r <;> simp_all [State.setPair, State.reg, Regs.get]

/-! ## Free values and the environment -/

@[simp] theorem drawBit_regs : ((drawBit s).2).regs = s.regs := rfl
@[simp] theorem drawBit_flags : ((drawBit s).2).flags = s.flags := rfl
@[simp] theorem drawBit_sp : ((drawBit s).2).sp = s.sp := rfl
@[simp] theorem drawBit_pc : ((drawBit s).2).pc = s.pc := rfl
@[simp] theorem drawBit_intr : ((drawBit s).2).intr = s.intr := rfl
@[simp] theorem drawBit_halted : ((drawBit s).2).halted = s.halted := rfl
@[simp] theorem drawBit_tfd : ((drawBit s).2).tfd = s.tfd := rfl
@[simp] theorem drawBit_mem : ((drawBit s).2).mem = s.mem := rfl
@[simp] theorem drawBit_params : ((drawBit s).2).params = s.params := rfl
@[simp] theorem drawBit_env_pins : ((drawBit s).2).env.pins = s.env.pins := rfl
@[simp] theorem drawBit_env_samples : ((drawBit s).2).env.samples = s.env.samples := rfl
@[simp] theorem drawBit_env_busIn : ((drawBit s).2).env.busIn = s.env.busIn := rfl
@[simp] theorem drawBit_env_trace : ((drawBit s).2).env.trace = s.env.trace := rfl
@[simp] theorem drawBit_env_holds : ((drawBit s).2).env.holds = s.env.holds := rfl

@[simp] theorem drawByte_regs : ((drawByte s).2).regs = s.regs := rfl
@[simp] theorem drawByte_flags : ((drawByte s).2).flags = s.flags := rfl
@[simp] theorem drawByte_sp : ((drawByte s).2).sp = s.sp := rfl
@[simp] theorem drawByte_pc : ((drawByte s).2).pc = s.pc := rfl
@[simp] theorem drawByte_intr : ((drawByte s).2).intr = s.intr := rfl
@[simp] theorem drawByte_halted : ((drawByte s).2).halted = s.halted := rfl
@[simp] theorem drawByte_tfd : ((drawByte s).2).tfd = s.tfd := rfl
@[simp] theorem drawByte_mem : ((drawByte s).2).mem = s.mem := rfl
@[simp] theorem drawByte_params : ((drawByte s).2).params = s.params := rfl
@[simp] theorem drawByte_env_pins : ((drawByte s).2).env.pins = s.env.pins := rfl
@[simp] theorem drawByte_env_samples : ((drawByte s).2).env.samples = s.env.samples := rfl
@[simp] theorem drawByte_env_busIn : ((drawByte s).2).env.busIn = s.env.busIn := rfl
@[simp] theorem drawByte_env_trace : ((drawByte s).2).env.trace = s.env.trace := rfl
@[simp] theorem drawByte_env_holds : ((drawByte s).2).env.holds = s.env.holds := rfl

@[simp] theorem openBit_regs (o : OpenBit) : ((openBit o s).2).regs = s.regs := by cases o <;> rfl
@[simp] theorem openBit_flags (o : OpenBit) : ((openBit o s).2).flags = s.flags :=
    by cases o <;> rfl
@[simp] theorem openBit_sp (o : OpenBit) : ((openBit o s).2).sp = s.sp := by cases o <;> rfl
@[simp] theorem openBit_pc (o : OpenBit) : ((openBit o s).2).pc = s.pc := by cases o <;> rfl
@[simp] theorem openBit_intr (o : OpenBit) : ((openBit o s).2).intr = s.intr := by cases o <;> rfl
@[simp] theorem openBit_halted (o : OpenBit) : ((openBit o s).2).halted = s.halted :=
    by cases o <;> rfl
@[simp] theorem openBit_tfd (o : OpenBit) : ((openBit o s).2).tfd = s.tfd := by cases o <;> rfl
@[simp] theorem openBit_mem (o : OpenBit) : ((openBit o s).2).mem = s.mem := by cases o <;> rfl
@[simp] theorem openBit_params (o : OpenBit) : ((openBit o s).2).params = s.params :=
    by cases o <;> rfl
@[simp] theorem openBit_env_pins (o : OpenBit) : ((openBit o s).2).env.pins = s.env.pins :=
    by cases o <;> rfl
@[simp] theorem openBit_env_samples (o : OpenBit) : ((openBit o s).2).env.samples = s.env.samples :=
    by cases o <;> rfl
@[simp] theorem openBit_env_busIn (o : OpenBit) : ((openBit o s).2).env.busIn = s.env.busIn :=
    by cases o <;> rfl
@[simp] theorem openBit_env_trace (o : OpenBit) : ((openBit o s).2).env.trace = s.env.trace :=
    by cases o <;> rfl
@[simp] theorem openBit_env_holds (o : OpenBit) : ((openBit o s).2).env.holds = s.env.holds :=
    by cases o <;> rfl

@[simp] theorem busAnswer_regs : ((busAnswer s).2).regs = s.regs :=
    by unfold busAnswer; split <;> rfl
@[simp] theorem busAnswer_flags : ((busAnswer s).2).flags = s.flags :=
    by unfold busAnswer; split <;> rfl
@[simp] theorem busAnswer_sp : ((busAnswer s).2).sp = s.sp := by unfold busAnswer; split <;> rfl
@[simp] theorem busAnswer_pc : ((busAnswer s).2).pc = s.pc := by unfold busAnswer; split <;> rfl
@[simp] theorem busAnswer_intr : ((busAnswer s).2).intr = s.intr :=
    by unfold busAnswer; split <;> rfl
@[simp] theorem busAnswer_halted : ((busAnswer s).2).halted = s.halted :=
    by unfold busAnswer; split <;> rfl
@[simp] theorem busAnswer_tfd : ((busAnswer s).2).tfd = s.tfd := by unfold busAnswer; split <;> rfl
@[simp] theorem busAnswer_mem : ((busAnswer s).2).mem = s.mem := by unfold busAnswer; split <;> rfl
@[simp] theorem busAnswer_params : ((busAnswer s).2).params = s.params :=
    by unfold busAnswer; split <;> rfl
@[simp] theorem busAnswer_env_pins : ((busAnswer s).2).env.pins = s.env.pins :=
    by unfold busAnswer; split <;> rfl
@[simp] theorem busAnswer_env_samples : ((busAnswer s).2).env.samples = s.env.samples :=
    by unfold busAnswer; split <;> rfl
@[simp] theorem busAnswer_env_trace : ((busAnswer s).2).env.trace = s.env.trace :=
    by unfold busAnswer; split <;> rfl
@[simp] theorem busAnswer_env_holds : ((busAnswer s).2).env.holds = s.env.holds :=
    by unfold busAnswer; split <;> rfl

/-! ## The other master -/

@[simp] theorem dmaWrite_regs (w : DmaWrite) : (dmaWrite s w).regs = s.regs :=
    by unfold dmaWrite; split <;> rfl
@[simp] theorem dmaWrite_flags (w : DmaWrite) : (dmaWrite s w).flags = s.flags :=
    by unfold dmaWrite; split <;> rfl
@[simp] theorem dmaWrite_sp (w : DmaWrite) : (dmaWrite s w).sp = s.sp :=
    by unfold dmaWrite; split <;> rfl
@[simp] theorem dmaWrite_pc (w : DmaWrite) : (dmaWrite s w).pc = s.pc :=
    by unfold dmaWrite; split <;> rfl
@[simp] theorem dmaWrite_intr (w : DmaWrite) : (dmaWrite s w).intr = s.intr :=
    by unfold dmaWrite; split <;> rfl
@[simp] theorem dmaWrite_halted (w : DmaWrite) : (dmaWrite s w).halted = s.halted :=
    by unfold dmaWrite; split <;> rfl
@[simp] theorem dmaWrite_tfd (w : DmaWrite) : (dmaWrite s w).tfd = s.tfd :=
    by unfold dmaWrite; split <;> rfl
@[simp] theorem dmaWrite_env (w : DmaWrite) : (dmaWrite s w).env = s.env :=
    by unfold dmaWrite; split <;> rfl
@[simp] theorem dmaWrite_params (w : DmaWrite) : (dmaWrite s w).params = s.params :=
    by unfold dmaWrite; split <;> rfl

theorem foldl_dmaWrite {α : Type} (f : State → α) (h : ∀ s w, f (dmaWrite s w) = f s)
    (ws : List DmaWrite) (s : State) : f (ws.foldl dmaWrite s) = f s := by
  induction ws generalizing s with
  | nil => rfl
  | cons w ws ih => exact (ih _).trans (h s w)

@[simp] theorem holdBus_regs (ws : List DmaWrite) : (holdBus ws s).regs = s.regs :=
    foldl_dmaWrite (fun t => t.regs) (fun t w => dmaWrite_regs t w) _ s
@[simp] theorem holdBus_flags (ws : List DmaWrite) : (holdBus ws s).flags = s.flags :=
    foldl_dmaWrite (fun t => t.flags) (fun t w => dmaWrite_flags t w) _ s
@[simp] theorem holdBus_sp (ws : List DmaWrite) : (holdBus ws s).sp = s.sp :=
    foldl_dmaWrite (fun t => t.sp) (fun t w => dmaWrite_sp t w) _ s
@[simp] theorem holdBus_pc (ws : List DmaWrite) : (holdBus ws s).pc = s.pc :=
    foldl_dmaWrite (fun t => t.pc) (fun t w => dmaWrite_pc t w) _ s
@[simp] theorem holdBus_intr (ws : List DmaWrite) : (holdBus ws s).intr = s.intr :=
    foldl_dmaWrite (fun t => t.intr) (fun t w => dmaWrite_intr t w) _ s
@[simp] theorem holdBus_halted (ws : List DmaWrite) : (holdBus ws s).halted = s.halted :=
    foldl_dmaWrite (fun t => t.halted) (fun t w => dmaWrite_halted t w) _ s
@[simp] theorem holdBus_tfd (ws : List DmaWrite) : (holdBus ws s).tfd = s.tfd :=
    foldl_dmaWrite (fun t => t.tfd) (fun t w => dmaWrite_tfd t w) _ s
@[simp] theorem holdBus_params (ws : List DmaWrite) : (holdBus ws s).params = s.params :=
    foldl_dmaWrite (fun t => t.params) (fun t w => dmaWrite_params t w) _ s
@[simp] theorem holdBus_env_pins (ws : List DmaWrite) : (holdBus ws s).env.pins = s.env.pins :=
    foldl_dmaWrite (fun t => t.env.pins) (fun t w => congrArg Env.pins (dmaWrite_env t w)) _ s
@[simp] theorem holdBus_env_samples (ws : List DmaWrite) : (holdBus ws s).env.samples = s.env.samples :=
    foldl_dmaWrite (fun t => t.env.samples) (fun t w => congrArg Env.samples (dmaWrite_env t w)) _ s
@[simp] theorem holdBus_env_busIn (ws : List DmaWrite) : (holdBus ws s).env.busIn = s.env.busIn :=
    foldl_dmaWrite (fun t => t.env.busIn) (fun t w => congrArg Env.busIn (dmaWrite_env t w)) _ s
@[simp] theorem holdBus_env_holds (ws : List DmaWrite) : (holdBus ws s).env.holds = s.env.holds :=
    foldl_dmaWrite (fun t => t.env.holds) (fun t w => congrArg Env.holds (dmaWrite_env t w)) _ s
@[simp] theorem holdBus_env_fresh (ws : List DmaWrite) : (holdBus ws s).env.fresh = s.env.fresh :=
    foldl_dmaWrite (fun t => t.env.fresh) (fun t w => congrArg Env.fresh (dmaWrite_env t w)) _ s
@[simp] theorem holdBus_env_trace (ws : List DmaWrite) : (holdBus ws s).env.trace = .holdAck :: s.env.trace := congrArg (fun e : Env => Event.holdAck :: e.trace)
      (foldl_dmaWrite (fun t => t.env) (fun t w => dmaWrite_env t w) _ s)

@[simp] theorem atCycle_regs : (s.atCycle).regs = s.regs :=
    by unfold State.atCycle; split; split <;> simp; rfl
@[simp] theorem atCycle_flags : (s.atCycle).flags = s.flags :=
    by unfold State.atCycle; split; split <;> simp; rfl
@[simp] theorem atCycle_sp : (s.atCycle).sp = s.sp :=
    by unfold State.atCycle; split; split <;> simp; rfl
@[simp] theorem atCycle_pc : (s.atCycle).pc = s.pc :=
    by unfold State.atCycle; split; split <;> simp; rfl
@[simp] theorem atCycle_intr : (s.atCycle).intr = s.intr :=
    by unfold State.atCycle; split; split <;> simp; rfl
@[simp] theorem atCycle_halted : (s.atCycle).halted = s.halted :=
    by unfold State.atCycle; split; split <;> simp; rfl
@[simp] theorem atCycle_tfd : (s.atCycle).tfd = s.tfd :=
    by unfold State.atCycle; split; split <;> simp; rfl
@[simp] theorem atCycle_params : (s.atCycle).params = s.params :=
    by unfold State.atCycle; split; split <;> simp; rfl
@[simp] theorem atCycle_env_pins : (s.atCycle).env.pins = s.env.pins :=
    by unfold State.atCycle; split; split <;> simp; rfl
@[simp] theorem atCycle_env_samples : (s.atCycle).env.samples = s.env.samples :=
    by unfold State.atCycle; split; split <;> simp; rfl
@[simp] theorem atCycle_env_busIn : (s.atCycle).env.busIn = s.env.busIn :=
    by unfold State.atCycle; split; split <;> simp; rfl
@[simp] theorem atCycle_env_fresh : (s.atCycle).env.fresh = s.env.fresh :=
    by unfold State.atCycle; split; split <;> simp; rfl

/-- Without another master nothing happens between bus transfers (R340). -/
theorem atCycle_absent (h : s.params.dmaPresent = false) : s.atCycle = s := by
  simp [State.atCycle, h]

/-- Where no hold is to come nothing happens between bus transfers. -/
theorem atCycle_nil (h : s.env.holds = []) : s.atCycle = s := by
  unfold State.atCycle; split <;> simp_all

/-! ## Bus transfers -/

@[simp] theorem ioRead_regs (p : Byte) : ((ioRead s p).2).regs = s.regs := by simp [ioRead]
@[simp] theorem ioRead_flags (p : Byte) : ((ioRead s p).2).flags = s.flags := by simp [ioRead]
@[simp] theorem ioRead_sp (p : Byte) : ((ioRead s p).2).sp = s.sp := by simp [ioRead]
@[simp] theorem ioRead_pc (p : Byte) : ((ioRead s p).2).pc = s.pc := by simp [ioRead]
@[simp] theorem ioRead_intr (p : Byte) : ((ioRead s p).2).intr = s.intr := by simp [ioRead]
@[simp] theorem ioRead_halted (p : Byte) : ((ioRead s p).2).halted = s.halted := by simp [ioRead]
@[simp] theorem ioRead_tfd (p : Byte) : ((ioRead s p).2).tfd = s.tfd := by simp [ioRead]
@[simp] theorem ioRead_params (p : Byte) : ((ioRead s p).2).params = s.params := by simp [ioRead]
@[simp] theorem ioRead_env_pins (p : Byte) : ((ioRead s p).2).env.pins = s.env.pins :=
    by simp [ioRead]
@[simp] theorem ioRead_env_samples (p : Byte) : ((ioRead s p).2).env.samples = s.env.samples :=
    by simp [ioRead]

@[simp] theorem intaRead_regs : ((intaRead s).2).regs = s.regs := by simp [intaRead]
@[simp] theorem intaRead_flags : ((intaRead s).2).flags = s.flags := by simp [intaRead]
@[simp] theorem intaRead_sp : ((intaRead s).2).sp = s.sp := by simp [intaRead]
@[simp] theorem intaRead_pc : ((intaRead s).2).pc = s.pc := by simp [intaRead]
@[simp] theorem intaRead_intr : ((intaRead s).2).intr = s.intr := by simp [intaRead]
@[simp] theorem intaRead_halted : ((intaRead s).2).halted = s.halted := by simp [intaRead]
@[simp] theorem intaRead_tfd : ((intaRead s).2).tfd = s.tfd := by simp [intaRead]
@[simp] theorem intaRead_params : ((intaRead s).2).params = s.params := by simp [intaRead]
@[simp] theorem intaRead_env_pins : ((intaRead s).2).env.pins = s.env.pins := by simp [intaRead]
@[simp] theorem intaRead_env_samples : ((intaRead s).2).env.samples = s.env.samples :=
    by simp [intaRead]

@[simp] theorem ioWrite_regs (p v : Byte) : (ioWrite s p v).regs = s.regs := by simp [ioWrite]
@[simp] theorem ioWrite_flags (p v : Byte) : (ioWrite s p v).flags = s.flags := by simp [ioWrite]
@[simp] theorem ioWrite_sp (p v : Byte) : (ioWrite s p v).sp = s.sp := by simp [ioWrite]
@[simp] theorem ioWrite_pc (p v : Byte) : (ioWrite s p v).pc = s.pc := by simp [ioWrite]
@[simp] theorem ioWrite_intr (p v : Byte) : (ioWrite s p v).intr = s.intr := by simp [ioWrite]
@[simp] theorem ioWrite_halted (p v : Byte) : (ioWrite s p v).halted = s.halted := by simp [ioWrite]
@[simp] theorem ioWrite_tfd (p v : Byte) : (ioWrite s p v).tfd = s.tfd := by simp [ioWrite]
@[simp] theorem ioWrite_params (p v : Byte) : (ioWrite s p v).params = s.params := by simp [ioWrite]
@[simp] theorem ioWrite_env_pins (p v : Byte) : (ioWrite s p v).env.pins = s.env.pins :=
    by simp [ioWrite]
@[simp] theorem ioWrite_env_samples (p v : Byte) : (ioWrite s p v).env.samples = s.env.samples :=
    by simp [ioWrite]
@[simp] theorem ioWrite_env_busIn (p v : Byte) : (ioWrite s p v).env.busIn = s.env.busIn :=
    by simp [ioWrite]
@[simp] theorem ioWrite_env_fresh (p v : Byte) : (ioWrite s p v).env.fresh = s.env.fresh :=
    by simp [ioWrite]

@[simp] theorem transferIn_regs (a : Word) : ((transferIn s a).2).regs = s.regs :=
    by unfold transferIn; split <;> simp
@[simp] theorem transferIn_flags (a : Word) : ((transferIn s a).2).flags = s.flags :=
    by unfold transferIn; split <;> simp
@[simp] theorem transferIn_sp (a : Word) : ((transferIn s a).2).sp = s.sp :=
    by unfold transferIn; split <;> simp
@[simp] theorem transferIn_pc (a : Word) : ((transferIn s a).2).pc = s.pc :=
    by unfold transferIn; split <;> simp
@[simp] theorem transferIn_intr (a : Word) : ((transferIn s a).2).intr = s.intr :=
    by unfold transferIn; split <;> simp
@[simp] theorem transferIn_halted (a : Word) : ((transferIn s a).2).halted = s.halted :=
    by unfold transferIn; split <;> simp
@[simp] theorem transferIn_tfd (a : Word) : ((transferIn s a).2).tfd = s.tfd :=
    by unfold transferIn; split <;> simp
@[simp] theorem transferIn_mem (a : Word) : ((transferIn s a).2).mem = s.mem :=
    by unfold transferIn; split <;> simp
@[simp] theorem transferIn_params (a : Word) : ((transferIn s a).2).params = s.params :=
    by unfold transferIn; split <;> simp
@[simp] theorem transferIn_env_pins (a : Word) : ((transferIn s a).2).env.pins = s.env.pins :=
    by unfold transferIn; split <;> simp
@[simp] theorem transferIn_env_samples (a : Word) : ((transferIn s a).2).env.samples = s.env.samples :=
    by unfold transferIn; split <;> simp
@[simp] theorem transferIn_env_holds (a : Word) : ((transferIn s a).2).env.holds = s.env.holds :=
    by unfold transferIn; split <;> simp

@[simp] theorem transferOut_regs (a : Word) (v : Byte) : (transferOut s a v).regs = s.regs :=
    by unfold transferOut; split <;> simp
@[simp] theorem transferOut_flags (a : Word) (v : Byte) : (transferOut s a v).flags = s.flags :=
    by unfold transferOut; split <;> simp
@[simp] theorem transferOut_sp (a : Word) (v : Byte) : (transferOut s a v).sp = s.sp :=
    by unfold transferOut; split <;> simp
@[simp] theorem transferOut_pc (a : Word) (v : Byte) : (transferOut s a v).pc = s.pc :=
    by unfold transferOut; split <;> simp
@[simp] theorem transferOut_intr (a : Word) (v : Byte) : (transferOut s a v).intr = s.intr :=
    by unfold transferOut; split <;> simp
@[simp] theorem transferOut_halted (a : Word) (v : Byte) : (transferOut s a v).halted = s.halted :=
    by unfold transferOut; split <;> simp
@[simp] theorem transferOut_tfd (a : Word) (v : Byte) : (transferOut s a v).tfd = s.tfd :=
    by unfold transferOut; split <;> simp
@[simp] theorem transferOut_params (a : Word) (v : Byte) : (transferOut s a v).params = s.params :=
    by unfold transferOut; split <;> simp
@[simp] theorem transferOut_env_pins (a : Word) (v : Byte) : (transferOut s a v).env.pins = s.env.pins :=
    by unfold transferOut; split <;> simp
@[simp] theorem transferOut_env_samples (a : Word) (v : Byte) : (transferOut s a v).env.samples = s.env.samples :=
    by unfold transferOut; split <;> simp
@[simp] theorem transferOut_env_busIn (a : Word) (v : Byte) : (transferOut s a v).env.busIn = s.env.busIn :=
    by unfold transferOut; split <;> simp
@[simp] theorem transferOut_env_holds (a : Word) (v : Byte) : (transferOut s a v).env.holds = s.env.holds :=
    by unfold transferOut; split <;> simp
@[simp] theorem transferOut_env_fresh (a : Word) (v : Byte) : (transferOut s a v).env.fresh = s.env.fresh :=
    by unfold transferOut; split <;> simp

/-! ## V and K -/

@[simp] theorem setVK_regs (v k : Bool) : (s.setVK v k).regs = s.regs :=
    by unfold State.setVK; split <;> rfl
@[simp] theorem setVK_sp (v k : Bool) : (s.setVK v k).sp = s.sp :=
    by unfold State.setVK; split <;> rfl
@[simp] theorem setVK_pc (v k : Bool) : (s.setVK v k).pc = s.pc :=
    by unfold State.setVK; split <;> rfl
@[simp] theorem setVK_intr (v k : Bool) : (s.setVK v k).intr = s.intr :=
    by unfold State.setVK; split <;> rfl
@[simp] theorem setVK_halted (v k : Bool) : (s.setVK v k).halted = s.halted :=
    by unfold State.setVK; split <;> rfl
@[simp] theorem setVK_tfd (v k : Bool) : (s.setVK v k).tfd = s.tfd :=
    by unfold State.setVK; split <;> rfl
@[simp] theorem setVK_mem (v k : Bool) : (s.setVK v k).mem = s.mem :=
    by unfold State.setVK; split <;> rfl
@[simp] theorem setVK_params (v k : Bool) : (s.setVK v k).params = s.params :=
    by unfold State.setVK; split <;> rfl
@[simp] theorem setVK_env_pins (v k : Bool) : (s.setVK v k).env.pins = s.env.pins :=
    by unfold State.setVK; split <;> rfl
@[simp] theorem setVK_env_samples (v k : Bool) : (s.setVK v k).env.samples = s.env.samples :=
    by unfold State.setVK; split <;> rfl
@[simp] theorem setVK_env_busIn (v k : Bool) : (s.setVK v k).env.busIn = s.env.busIn :=
    by unfold State.setVK; split <;> rfl
@[simp] theorem setVK_env_trace (v k : Bool) : (s.setVK v k).env.trace = s.env.trace :=
    by unfold State.setVK; split <;> rfl
@[simp] theorem setVK_env_holds (v k : Bool) : (s.setVK v k).env.holds = s.env.holds :=
    by unfold State.setVK; split <;> rfl

@[simp] theorem setVK_flags_s (v k : Bool) : (s.setVK v k).flags.s = s.flags.s :=
    by unfold State.setVK; split <;> rfl
@[simp] theorem setVK_flags_z (v k : Bool) : (s.setVK v k).flags.z = s.flags.z :=
    by unfold State.setVK; split <;> rfl
@[simp] theorem setVK_flags_ac (v k : Bool) : (s.setVK v k).flags.ac = s.flags.ac :=
    by unfold State.setVK; split <;> rfl
@[simp] theorem setVK_flags_p (v k : Bool) : (s.setVK v k).flags.p = s.flags.p :=
    by unfold State.setVK; split <;> rfl
@[simp] theorem setVK_flags_cy (v k : Bool) : (s.setVK v k).flags.cy = s.flags.cy :=
    by unfold State.setVK; split <;> rfl

theorem setVK_exact (h : s.params.vkExact = true) (v k : Bool) :
    s.setVK v k = { s with flags := { s.flags with v := v, k := k } } := by
  simp [State.setVK, h]

theorem setVK_free (h : s.params.vkExact = false) (v k : Bool) :
    (s.setVK v k).flags.v = Config.freeBit s.env.fresh ∧
      (s.setVK v k).flags.k = Config.freeBit (s.env.fresh + 1) ∧
      (s.setVK v k).env.fresh = s.env.fresh + 2 := by
  simp [State.setVK, h, drawBit, State.nextFresh]

@[simp] theorem keepVK_regs : (s.keepVK).regs = s.regs := by simp [State.keepVK]
@[simp] theorem keepVK_sp : (s.keepVK).sp = s.sp := by simp [State.keepVK]
@[simp] theorem keepVK_pc : (s.keepVK).pc = s.pc := by simp [State.keepVK]
@[simp] theorem keepVK_intr : (s.keepVK).intr = s.intr := by simp [State.keepVK]
@[simp] theorem keepVK_halted : (s.keepVK).halted = s.halted := by simp [State.keepVK]
@[simp] theorem keepVK_tfd : (s.keepVK).tfd = s.tfd := by simp [State.keepVK]
@[simp] theorem keepVK_mem : (s.keepVK).mem = s.mem := by simp [State.keepVK]
@[simp] theorem keepVK_params : (s.keepVK).params = s.params := by simp [State.keepVK]
@[simp] theorem keepVK_env_pins : (s.keepVK).env.pins = s.env.pins := by simp [State.keepVK]
@[simp] theorem keepVK_env_samples : (s.keepVK).env.samples = s.env.samples :=
    by simp [State.keepVK]
@[simp] theorem keepVK_env_busIn : (s.keepVK).env.busIn = s.env.busIn := by simp [State.keepVK]
@[simp] theorem keepVK_env_trace : (s.keepVK).env.trace = s.env.trace := by simp [State.keepVK]
@[simp] theorem keepVK_env_holds : (s.keepVK).env.holds = s.env.holds := by simp [State.keepVK]

@[simp] theorem keepVK_flags_s : s.keepVK.flags.s = s.flags.s := by simp [State.keepVK]
@[simp] theorem keepVK_flags_z : s.keepVK.flags.z = s.flags.z := by simp [State.keepVK]
@[simp] theorem keepVK_flags_ac : s.keepVK.flags.ac = s.flags.ac := by simp [State.keepVK]
@[simp] theorem keepVK_flags_p : s.keepVK.flags.p = s.flags.p := by simp [State.keepVK]
@[simp] theorem keepVK_flags_cy : s.keepVK.flags.cy = s.flags.cy := by simp [State.keepVK]

@[simp] theorem arithFlags_regs (o : AluOut) (x : Bool) : (s.arithFlags o x).regs = s.regs :=
    by simp [State.arithFlags]
@[simp] theorem arithFlags_sp (o : AluOut) (x : Bool) : (s.arithFlags o x).sp = s.sp :=
    by simp [State.arithFlags]
@[simp] theorem arithFlags_pc (o : AluOut) (x : Bool) : (s.arithFlags o x).pc = s.pc :=
    by simp [State.arithFlags]
@[simp] theorem arithFlags_intr (o : AluOut) (x : Bool) : (s.arithFlags o x).intr = s.intr :=
    by simp [State.arithFlags]
@[simp] theorem arithFlags_halted (o : AluOut) (x : Bool) : (s.arithFlags o x).halted = s.halted :=
    by simp [State.arithFlags]
@[simp] theorem arithFlags_tfd (o : AluOut) (x : Bool) : (s.arithFlags o x).tfd = s.tfd :=
    by simp [State.arithFlags]
@[simp] theorem arithFlags_mem (o : AluOut) (x : Bool) : (s.arithFlags o x).mem = s.mem :=
    by simp [State.arithFlags]
@[simp] theorem arithFlags_params (o : AluOut) (x : Bool) : (s.arithFlags o x).params = s.params :=
    by simp [State.arithFlags]
@[simp] theorem arithFlags_env_pins (o : AluOut) (x : Bool) : (s.arithFlags o x).env.pins = s.env.pins :=
    by simp [State.arithFlags]
@[simp] theorem arithFlags_env_samples (o : AluOut) (x : Bool) : (s.arithFlags o x).env.samples = s.env.samples :=
    by simp [State.arithFlags]
@[simp] theorem arithFlags_env_busIn (o : AluOut) (x : Bool) : (s.arithFlags o x).env.busIn = s.env.busIn :=
    by simp [State.arithFlags]
@[simp] theorem arithFlags_env_trace (o : AluOut) (x : Bool) : (s.arithFlags o x).env.trace = s.env.trace :=
    by simp [State.arithFlags]
@[simp] theorem arithFlags_env_holds (o : AluOut) (x : Bool) : (s.arithFlags o x).env.holds = s.env.holds :=
    by simp [State.arithFlags]

@[simp] theorem logicFlags_regs (v : Byte) (x : Bool) : (s.logicFlags v x).regs = s.regs :=
    by cases x <;> simp [State.logicFlags]
@[simp] theorem logicFlags_sp (v : Byte) (x : Bool) : (s.logicFlags v x).sp = s.sp :=
    by cases x <;> simp [State.logicFlags]
@[simp] theorem logicFlags_pc (v : Byte) (x : Bool) : (s.logicFlags v x).pc = s.pc :=
    by cases x <;> simp [State.logicFlags]
@[simp] theorem logicFlags_intr (v : Byte) (x : Bool) : (s.logicFlags v x).intr = s.intr :=
    by cases x <;> simp [State.logicFlags]
@[simp] theorem logicFlags_halted (v : Byte) (x : Bool) : (s.logicFlags v x).halted = s.halted :=
    by cases x <;> simp [State.logicFlags]
@[simp] theorem logicFlags_tfd (v : Byte) (x : Bool) : (s.logicFlags v x).tfd = s.tfd :=
    by cases x <;> simp [State.logicFlags]
@[simp] theorem logicFlags_mem (v : Byte) (x : Bool) : (s.logicFlags v x).mem = s.mem :=
    by cases x <;> simp [State.logicFlags]
@[simp] theorem logicFlags_params (v : Byte) (x : Bool) : (s.logicFlags v x).params = s.params :=
    by cases x <;> simp [State.logicFlags]
@[simp] theorem logicFlags_env_pins (v : Byte) (x : Bool) : (s.logicFlags v x).env.pins = s.env.pins :=
    by cases x <;> simp [State.logicFlags]
@[simp] theorem logicFlags_env_samples (v : Byte) (x : Bool) : (s.logicFlags v x).env.samples = s.env.samples :=
    by cases x <;> simp [State.logicFlags]
@[simp] theorem logicFlags_env_busIn (v : Byte) (x : Bool) : (s.logicFlags v x).env.busIn = s.env.busIn :=
    by cases x <;> simp [State.logicFlags]
@[simp] theorem logicFlags_env_trace (v : Byte) (x : Bool) : (s.logicFlags v x).env.trace = s.env.trace :=
    by cases x <;> simp [State.logicFlags]
@[simp] theorem logicFlags_env_holds (v : Byte) (x : Bool) : (s.logicFlags v x).env.holds = s.env.holds :=
    by cases x <;> simp [State.logicFlags]

@[simp] theorem accAdd_sp (x : Byte) (c : Bool) : (accAdd s x c).sp = s.sp := by simp [accAdd]
@[simp] theorem accAdd_pc (x : Byte) (c : Bool) : (accAdd s x c).pc = s.pc := by simp [accAdd]
@[simp] theorem accAdd_intr (x : Byte) (c : Bool) : (accAdd s x c).intr = s.intr := by simp [accAdd]
@[simp] theorem accAdd_halted (x : Byte) (c : Bool) : (accAdd s x c).halted = s.halted :=
    by simp [accAdd]
@[simp] theorem accAdd_tfd (x : Byte) (c : Bool) : (accAdd s x c).tfd = s.tfd := by simp [accAdd]
@[simp] theorem accAdd_mem (x : Byte) (c : Bool) : (accAdd s x c).mem = s.mem := by simp [accAdd]
@[simp] theorem accAdd_params (x : Byte) (c : Bool) : (accAdd s x c).params = s.params :=
    by simp [accAdd]
@[simp] theorem accAdd_env_pins (x : Byte) (c : Bool) : (accAdd s x c).env.pins = s.env.pins :=
    by simp [accAdd]
@[simp] theorem accAdd_env_samples (x : Byte) (c : Bool) : (accAdd s x c).env.samples = s.env.samples :=
    by simp [accAdd]
@[simp] theorem accAdd_env_busIn (x : Byte) (c : Bool) : (accAdd s x c).env.busIn = s.env.busIn :=
    by simp [accAdd]
@[simp] theorem accAdd_env_trace (x : Byte) (c : Bool) : (accAdd s x c).env.trace = s.env.trace :=
    by simp [accAdd]
@[simp] theorem accAdd_env_holds (x : Byte) (c : Bool) : (accAdd s x c).env.holds = s.env.holds :=
    by simp [accAdd]

@[simp] theorem accSub_sp (x : Byte) (c : Bool) : (accSub s x c).sp = s.sp := by simp [accSub]
@[simp] theorem accSub_pc (x : Byte) (c : Bool) : (accSub s x c).pc = s.pc := by simp [accSub]
@[simp] theorem accSub_intr (x : Byte) (c : Bool) : (accSub s x c).intr = s.intr := by simp [accSub]
@[simp] theorem accSub_halted (x : Byte) (c : Bool) : (accSub s x c).halted = s.halted :=
    by simp [accSub]
@[simp] theorem accSub_tfd (x : Byte) (c : Bool) : (accSub s x c).tfd = s.tfd := by simp [accSub]
@[simp] theorem accSub_mem (x : Byte) (c : Bool) : (accSub s x c).mem = s.mem := by simp [accSub]
@[simp] theorem accSub_params (x : Byte) (c : Bool) : (accSub s x c).params = s.params :=
    by simp [accSub]
@[simp] theorem accSub_env_pins (x : Byte) (c : Bool) : (accSub s x c).env.pins = s.env.pins :=
    by simp [accSub]
@[simp] theorem accSub_env_samples (x : Byte) (c : Bool) : (accSub s x c).env.samples = s.env.samples :=
    by simp [accSub]
@[simp] theorem accSub_env_busIn (x : Byte) (c : Bool) : (accSub s x c).env.busIn = s.env.busIn :=
    by simp [accSub]
@[simp] theorem accSub_env_trace (x : Byte) (c : Bool) : (accSub s x c).env.trace = s.env.trace :=
    by simp [accSub]
@[simp] theorem accSub_env_holds (x : Byte) (c : Bool) : (accSub s x c).env.holds = s.env.holds :=
    by simp [accSub]

@[simp] theorem accAnd_sp (x : Byte) : (accAnd s x).sp = s.sp := by simp [accAnd]
@[simp] theorem accAnd_pc (x : Byte) : (accAnd s x).pc = s.pc := by simp [accAnd]
@[simp] theorem accAnd_intr (x : Byte) : (accAnd s x).intr = s.intr := by simp [accAnd]
@[simp] theorem accAnd_halted (x : Byte) : (accAnd s x).halted = s.halted := by simp [accAnd]
@[simp] theorem accAnd_tfd (x : Byte) : (accAnd s x).tfd = s.tfd := by simp [accAnd]
@[simp] theorem accAnd_mem (x : Byte) : (accAnd s x).mem = s.mem := by simp [accAnd]
@[simp] theorem accAnd_params (x : Byte) : (accAnd s x).params = s.params := by simp [accAnd]
@[simp] theorem accAnd_env_pins (x : Byte) : (accAnd s x).env.pins = s.env.pins := by simp [accAnd]
@[simp] theorem accAnd_env_samples (x : Byte) : (accAnd s x).env.samples = s.env.samples :=
    by simp [accAnd]
@[simp] theorem accAnd_env_busIn (x : Byte) : (accAnd s x).env.busIn = s.env.busIn :=
    by simp [accAnd]
@[simp] theorem accAnd_env_trace (x : Byte) : (accAnd s x).env.trace = s.env.trace :=
    by simp [accAnd]
@[simp] theorem accAnd_env_holds (x : Byte) : (accAnd s x).env.holds = s.env.holds :=
    by simp [accAnd]

@[simp] theorem accXor_sp (x : Byte) : (accXor s x).sp = s.sp := by simp [accXor]
@[simp] theorem accXor_pc (x : Byte) : (accXor s x).pc = s.pc := by simp [accXor]
@[simp] theorem accXor_intr (x : Byte) : (accXor s x).intr = s.intr := by simp [accXor]
@[simp] theorem accXor_halted (x : Byte) : (accXor s x).halted = s.halted := by simp [accXor]
@[simp] theorem accXor_tfd (x : Byte) : (accXor s x).tfd = s.tfd := by simp [accXor]
@[simp] theorem accXor_mem (x : Byte) : (accXor s x).mem = s.mem := by simp [accXor]
@[simp] theorem accXor_params (x : Byte) : (accXor s x).params = s.params := by simp [accXor]
@[simp] theorem accXor_env_pins (x : Byte) : (accXor s x).env.pins = s.env.pins := by simp [accXor]
@[simp] theorem accXor_env_samples (x : Byte) : (accXor s x).env.samples = s.env.samples :=
    by simp [accXor]
@[simp] theorem accXor_env_busIn (x : Byte) : (accXor s x).env.busIn = s.env.busIn :=
    by simp [accXor]
@[simp] theorem accXor_env_trace (x : Byte) : (accXor s x).env.trace = s.env.trace :=
    by simp [accXor]
@[simp] theorem accXor_env_holds (x : Byte) : (accXor s x).env.holds = s.env.holds :=
    by simp [accXor]

@[simp] theorem accOr_sp (x : Byte) : (accOr s x).sp = s.sp := by simp [accOr]
@[simp] theorem accOr_pc (x : Byte) : (accOr s x).pc = s.pc := by simp [accOr]
@[simp] theorem accOr_intr (x : Byte) : (accOr s x).intr = s.intr := by simp [accOr]
@[simp] theorem accOr_halted (x : Byte) : (accOr s x).halted = s.halted := by simp [accOr]
@[simp] theorem accOr_tfd (x : Byte) : (accOr s x).tfd = s.tfd := by simp [accOr]
@[simp] theorem accOr_mem (x : Byte) : (accOr s x).mem = s.mem := by simp [accOr]
@[simp] theorem accOr_params (x : Byte) : (accOr s x).params = s.params := by simp [accOr]
@[simp] theorem accOr_env_pins (x : Byte) : (accOr s x).env.pins = s.env.pins := by simp [accOr]
@[simp] theorem accOr_env_samples (x : Byte) : (accOr s x).env.samples = s.env.samples :=
    by simp [accOr]
@[simp] theorem accOr_env_busIn (x : Byte) : (accOr s x).env.busIn = s.env.busIn := by simp [accOr]
@[simp] theorem accOr_env_trace (x : Byte) : (accOr s x).env.trace = s.env.trace := by simp [accOr]
@[simp] theorem accOr_env_holds (x : Byte) : (accOr s x).env.holds = s.env.holds := by simp [accOr]

@[simp] theorem accCmp_regs (x : Byte) : (accCmp s x).regs = s.regs := by simp [accCmp]
@[simp] theorem accCmp_sp (x : Byte) : (accCmp s x).sp = s.sp := by simp [accCmp]
@[simp] theorem accCmp_pc (x : Byte) : (accCmp s x).pc = s.pc := by simp [accCmp]
@[simp] theorem accCmp_intr (x : Byte) : (accCmp s x).intr = s.intr := by simp [accCmp]
@[simp] theorem accCmp_halted (x : Byte) : (accCmp s x).halted = s.halted := by simp [accCmp]
@[simp] theorem accCmp_tfd (x : Byte) : (accCmp s x).tfd = s.tfd := by simp [accCmp]
@[simp] theorem accCmp_mem (x : Byte) : (accCmp s x).mem = s.mem := by simp [accCmp]
@[simp] theorem accCmp_params (x : Byte) : (accCmp s x).params = s.params := by simp [accCmp]
@[simp] theorem accCmp_env_pins (x : Byte) : (accCmp s x).env.pins = s.env.pins := by simp [accCmp]
@[simp] theorem accCmp_env_samples (x : Byte) : (accCmp s x).env.samples = s.env.samples :=
    by simp [accCmp]
@[simp] theorem accCmp_env_busIn (x : Byte) : (accCmp s x).env.busIn = s.env.busIn :=
    by simp [accCmp]
@[simp] theorem accCmp_env_trace (x : Byte) : (accCmp s x).env.trace = s.env.trace :=
    by simp [accCmp]
@[simp] theorem accCmp_env_holds (x : Byte) : (accCmp s x).env.holds = s.env.holds :=
    by simp [accCmp]

/-! ## Memory and the stack -/

@[simp] theorem memRead_regs (a : Word) : ((memRead s a).2).regs = s.regs := by simp [memRead]
@[simp] theorem memRead_flags (a : Word) : ((memRead s a).2).flags = s.flags := by simp [memRead]
@[simp] theorem memRead_sp (a : Word) : ((memRead s a).2).sp = s.sp := by simp [memRead]
@[simp] theorem memRead_pc (a : Word) : ((memRead s a).2).pc = s.pc := by simp [memRead]
@[simp] theorem memRead_intr (a : Word) : ((memRead s a).2).intr = s.intr := by simp [memRead]
@[simp] theorem memRead_halted (a : Word) : ((memRead s a).2).halted = s.halted := by simp [memRead]
@[simp] theorem memRead_tfd (a : Word) : ((memRead s a).2).tfd = s.tfd := by simp [memRead]
@[simp] theorem memRead_params (a : Word) : ((memRead s a).2).params = s.params := by simp [memRead]
@[simp] theorem memRead_env_pins (a : Word) : ((memRead s a).2).env.pins = s.env.pins :=
    by simp [memRead]
@[simp] theorem memRead_env_samples (a : Word) : ((memRead s a).2).env.samples = s.env.samples :=
    by simp [memRead]

@[simp] theorem memWrite_regs (a : Word) (v : Byte) : (memWrite s a v).regs = s.regs :=
    by simp [memWrite]
@[simp] theorem memWrite_flags (a : Word) (v : Byte) : (memWrite s a v).flags = s.flags :=
    by simp [memWrite]
@[simp] theorem memWrite_sp (a : Word) (v : Byte) : (memWrite s a v).sp = s.sp := by simp [memWrite]
@[simp] theorem memWrite_pc (a : Word) (v : Byte) : (memWrite s a v).pc = s.pc := by simp [memWrite]
@[simp] theorem memWrite_intr (a : Word) (v : Byte) : (memWrite s a v).intr = s.intr :=
    by simp [memWrite]
@[simp] theorem memWrite_halted (a : Word) (v : Byte) : (memWrite s a v).halted = s.halted :=
    by simp [memWrite]
@[simp] theorem memWrite_tfd (a : Word) (v : Byte) : (memWrite s a v).tfd = s.tfd :=
    by simp [memWrite]
@[simp] theorem memWrite_params (a : Word) (v : Byte) : (memWrite s a v).params = s.params :=
    by simp [memWrite]
@[simp] theorem memWrite_env_pins (a : Word) (v : Byte) : (memWrite s a v).env.pins = s.env.pins :=
    by simp [memWrite]
@[simp] theorem memWrite_env_samples (a : Word) (v : Byte) : (memWrite s a v).env.samples = s.env.samples :=
    by simp [memWrite]
@[simp] theorem memWrite_env_busIn (a : Word) (v : Byte) : (memWrite s a v).env.busIn = s.env.busIn :=
    by simp [memWrite]
@[simp] theorem memWrite_env_fresh (a : Word) (v : Byte) : (memWrite s a v).env.fresh = s.env.fresh :=
    by simp [memWrite]

@[simp] theorem memRead16_regs (a : Word) : ((memRead16 s a).2).regs = s.regs := by simp [memRead16]
@[simp] theorem memRead16_flags (a : Word) : ((memRead16 s a).2).flags = s.flags :=
    by simp [memRead16]
@[simp] theorem memRead16_sp (a : Word) : ((memRead16 s a).2).sp = s.sp := by simp [memRead16]
@[simp] theorem memRead16_pc (a : Word) : ((memRead16 s a).2).pc = s.pc := by simp [memRead16]
@[simp] theorem memRead16_intr (a : Word) : ((memRead16 s a).2).intr = s.intr := by simp [memRead16]
@[simp] theorem memRead16_halted (a : Word) : ((memRead16 s a).2).halted = s.halted :=
    by simp [memRead16]
@[simp] theorem memRead16_tfd (a : Word) : ((memRead16 s a).2).tfd = s.tfd := by simp [memRead16]
@[simp] theorem memRead16_params (a : Word) : ((memRead16 s a).2).params = s.params :=
    by simp [memRead16]
@[simp] theorem memRead16_env_pins (a : Word) : ((memRead16 s a).2).env.pins = s.env.pins :=
    by simp [memRead16]
@[simp] theorem memRead16_env_samples (a : Word) : ((memRead16 s a).2).env.samples = s.env.samples :=
    by simp [memRead16]

@[simp] theorem memWrite16_regs (a v : Word) : (memWrite16 s a v).regs = s.regs :=
    by simp [memWrite16]
@[simp] theorem memWrite16_flags (a v : Word) : (memWrite16 s a v).flags = s.flags :=
    by simp [memWrite16]
@[simp] theorem memWrite16_sp (a v : Word) : (memWrite16 s a v).sp = s.sp := by simp [memWrite16]
@[simp] theorem memWrite16_pc (a v : Word) : (memWrite16 s a v).pc = s.pc := by simp [memWrite16]
@[simp] theorem memWrite16_intr (a v : Word) : (memWrite16 s a v).intr = s.intr :=
    by simp [memWrite16]
@[simp] theorem memWrite16_halted (a v : Word) : (memWrite16 s a v).halted = s.halted :=
    by simp [memWrite16]
@[simp] theorem memWrite16_tfd (a v : Word) : (memWrite16 s a v).tfd = s.tfd := by simp [memWrite16]
@[simp] theorem memWrite16_params (a v : Word) : (memWrite16 s a v).params = s.params :=
    by simp [memWrite16]
@[simp] theorem memWrite16_env_pins (a v : Word) : (memWrite16 s a v).env.pins = s.env.pins :=
    by simp [memWrite16]
@[simp] theorem memWrite16_env_samples (a v : Word) : (memWrite16 s a v).env.samples = s.env.samples :=
    by simp [memWrite16]
@[simp] theorem memWrite16_env_busIn (a v : Word) : (memWrite16 s a v).env.busIn = s.env.busIn :=
    by simp [memWrite16]
@[simp] theorem memWrite16_env_fresh (a v : Word) : (memWrite16 s a v).env.fresh = s.env.fresh :=
    by simp [memWrite16]

@[simp] theorem fetch8_regs : ((fetch8 s).2).regs = s.regs := by simp [fetch8]
@[simp] theorem fetch8_flags : ((fetch8 s).2).flags = s.flags := by simp [fetch8]
@[simp] theorem fetch8_sp : ((fetch8 s).2).sp = s.sp := by simp [fetch8]
@[simp] theorem fetch8_intr : ((fetch8 s).2).intr = s.intr := by simp [fetch8]
@[simp] theorem fetch8_halted : ((fetch8 s).2).halted = s.halted := by simp [fetch8]
@[simp] theorem fetch8_tfd : ((fetch8 s).2).tfd = s.tfd := by simp [fetch8]
@[simp] theorem fetch8_params : ((fetch8 s).2).params = s.params := by simp [fetch8]
@[simp] theorem fetch8_env_pins : ((fetch8 s).2).env.pins = s.env.pins := by simp [fetch8]
@[simp] theorem fetch8_env_samples : ((fetch8 s).2).env.samples = s.env.samples := by simp [fetch8]

@[simp] theorem fetch8_pc : (fetch8 s).2.pc = s.pc + 1 := by simp [fetch8]
@[simp] theorem push16_regs (v : Word) : (push16 s v).regs = s.regs := by simp [push16]
@[simp] theorem push16_flags (v : Word) : (push16 s v).flags = s.flags := by simp [push16]
@[simp] theorem push16_pc (v : Word) : (push16 s v).pc = s.pc := by simp [push16]
@[simp] theorem push16_intr (v : Word) : (push16 s v).intr = s.intr := by simp [push16]
@[simp] theorem push16_halted (v : Word) : (push16 s v).halted = s.halted := by simp [push16]
@[simp] theorem push16_tfd (v : Word) : (push16 s v).tfd = s.tfd := by simp [push16]
@[simp] theorem push16_params (v : Word) : (push16 s v).params = s.params := by simp [push16]
@[simp] theorem push16_env_pins (v : Word) : (push16 s v).env.pins = s.env.pins := by simp [push16]
@[simp] theorem push16_env_samples (v : Word) : (push16 s v).env.samples = s.env.samples :=
    by simp [push16]
@[simp] theorem push16_env_busIn (v : Word) : (push16 s v).env.busIn = s.env.busIn :=
    by simp [push16]
@[simp] theorem push16_env_fresh (v : Word) : (push16 s v).env.fresh = s.env.fresh :=
    by simp [push16]

@[simp] theorem push16_sp (v : Word) : (push16 s v).sp = s.sp - 2 := rfl
@[simp] theorem pop16_regs : ((pop16 s).2).regs = s.regs := by simp [pop16]
@[simp] theorem pop16_flags : ((pop16 s).2).flags = s.flags := by simp [pop16]
@[simp] theorem pop16_pc : ((pop16 s).2).pc = s.pc := by simp [pop16]
@[simp] theorem pop16_intr : ((pop16 s).2).intr = s.intr := by simp [pop16]
@[simp] theorem pop16_halted : ((pop16 s).2).halted = s.halted := by simp [pop16]
@[simp] theorem pop16_tfd : ((pop16 s).2).tfd = s.tfd := by simp [pop16]
@[simp] theorem pop16_params : ((pop16 s).2).params = s.params := by simp [pop16]
@[simp] theorem pop16_env_pins : ((pop16 s).2).env.pins = s.env.pins := by simp [pop16]
@[simp] theorem pop16_env_samples : ((pop16 s).2).env.samples = s.env.samples := by simp [pop16]

@[simp] theorem pop16_sp : (pop16 s).2.sp = s.sp + 2 := rfl

/-! ## Jumps, calls, returns, entries -/

@[simp] theorem jumpIf_regs (t : Bool) (a : Word) : (jumpIf t a s).regs = s.regs :=
    by cases t <;> rfl
@[simp] theorem jumpIf_flags (t : Bool) (a : Word) : (jumpIf t a s).flags = s.flags :=
    by cases t <;> rfl
@[simp] theorem jumpIf_sp (t : Bool) (a : Word) : (jumpIf t a s).sp = s.sp := by cases t <;> rfl
@[simp] theorem jumpIf_intr (t : Bool) (a : Word) : (jumpIf t a s).intr = s.intr :=
    by cases t <;> rfl
@[simp] theorem jumpIf_halted (t : Bool) (a : Word) : (jumpIf t a s).halted = s.halted :=
    by cases t <;> rfl
@[simp] theorem jumpIf_tfd (t : Bool) (a : Word) : (jumpIf t a s).tfd = s.tfd := by cases t <;> rfl
@[simp] theorem jumpIf_mem (t : Bool) (a : Word) : (jumpIf t a s).mem = s.mem := by cases t <;> rfl
@[simp] theorem jumpIf_env (t : Bool) (a : Word) : (jumpIf t a s).env = s.env := by cases t <;> rfl
@[simp] theorem jumpIf_params (t : Bool) (a : Word) : (jumpIf t a s).params = s.params :=
    by cases t <;> rfl

@[simp] theorem jumpIf_pc (t : Bool) (a : Word) : (jumpIf t a s).pc = if t then a else s.pc :=
    by cases t <;> rfl
@[simp] theorem callTo_regs (a : Word) : (callTo a s).regs = s.regs := by simp [callTo]
@[simp] theorem callTo_flags (a : Word) : (callTo a s).flags = s.flags := by simp [callTo]
@[simp] theorem callTo_intr (a : Word) : (callTo a s).intr = s.intr := by simp [callTo]
@[simp] theorem callTo_halted (a : Word) : (callTo a s).halted = s.halted := by simp [callTo]
@[simp] theorem callTo_tfd (a : Word) : (callTo a s).tfd = s.tfd := by simp [callTo]
@[simp] theorem callTo_params (a : Word) : (callTo a s).params = s.params := by simp [callTo]
@[simp] theorem callTo_env_pins (a : Word) : (callTo a s).env.pins = s.env.pins := by simp [callTo]
@[simp] theorem callTo_env_samples (a : Word) : (callTo a s).env.samples = s.env.samples :=
    by simp [callTo]
@[simp] theorem callTo_env_busIn (a : Word) : (callTo a s).env.busIn = s.env.busIn :=
    by simp [callTo]
@[simp] theorem callTo_env_fresh (a : Word) : (callTo a s).env.fresh = s.env.fresh :=
    by simp [callTo]

@[simp] theorem callTo_pc (a : Word) : (callTo a s).pc = a := rfl
@[simp] theorem callTo_sp (a : Word) : (callTo a s).sp = s.sp - 2 := rfl
@[simp] theorem callIf_regs (t : Bool) (a : Word) : (callIf t a s).regs = s.regs :=
    by cases t <;> simp [callIf]
@[simp] theorem callIf_flags (t : Bool) (a : Word) : (callIf t a s).flags = s.flags :=
    by cases t <;> simp [callIf]
@[simp] theorem callIf_intr (t : Bool) (a : Word) : (callIf t a s).intr = s.intr :=
    by cases t <;> simp [callIf]
@[simp] theorem callIf_halted (t : Bool) (a : Word) : (callIf t a s).halted = s.halted :=
    by cases t <;> simp [callIf]
@[simp] theorem callIf_tfd (t : Bool) (a : Word) : (callIf t a s).tfd = s.tfd :=
    by cases t <;> simp [callIf]
@[simp] theorem callIf_params (t : Bool) (a : Word) : (callIf t a s).params = s.params :=
    by cases t <;> simp [callIf]
@[simp] theorem callIf_env_pins (t : Bool) (a : Word) : (callIf t a s).env.pins = s.env.pins :=
    by cases t <;> simp [callIf]
@[simp] theorem callIf_env_samples (t : Bool) (a : Word) : (callIf t a s).env.samples = s.env.samples :=
    by cases t <;> simp [callIf]
@[simp] theorem callIf_env_busIn (t : Bool) (a : Word) : (callIf t a s).env.busIn = s.env.busIn :=
    by cases t <;> simp [callIf]
@[simp] theorem callIf_env_fresh (t : Bool) (a : Word) : (callIf t a s).env.fresh = s.env.fresh :=
    by cases t <;> simp [callIf]

@[simp] theorem returnFrom_regs : (returnFrom s).regs = s.regs := by simp [returnFrom]
@[simp] theorem returnFrom_flags : (returnFrom s).flags = s.flags := by simp [returnFrom]
@[simp] theorem returnFrom_intr : (returnFrom s).intr = s.intr := by simp [returnFrom]
@[simp] theorem returnFrom_halted : (returnFrom s).halted = s.halted := by simp [returnFrom]
@[simp] theorem returnFrom_tfd : (returnFrom s).tfd = s.tfd := by simp [returnFrom]
@[simp] theorem returnFrom_params : (returnFrom s).params = s.params := by simp [returnFrom]
@[simp] theorem returnFrom_env_pins : (returnFrom s).env.pins = s.env.pins := by simp [returnFrom]
@[simp] theorem returnFrom_env_samples : (returnFrom s).env.samples = s.env.samples :=
    by simp [returnFrom]

@[simp] theorem returnFrom_sp : (returnFrom s).sp = s.sp + 2 := rfl
@[simp] theorem returnIf_regs (t : Bool) : (returnIf t s).regs = s.regs :=
    by cases t <;> simp [returnIf]
@[simp] theorem returnIf_flags (t : Bool) : (returnIf t s).flags = s.flags :=
    by cases t <;> simp [returnIf]
@[simp] theorem returnIf_intr (t : Bool) : (returnIf t s).intr = s.intr :=
    by cases t <;> simp [returnIf]
@[simp] theorem returnIf_halted (t : Bool) : (returnIf t s).halted = s.halted :=
    by cases t <;> simp [returnIf]
@[simp] theorem returnIf_tfd (t : Bool) : (returnIf t s).tfd = s.tfd :=
    by cases t <;> simp [returnIf]
@[simp] theorem returnIf_params (t : Bool) : (returnIf t s).params = s.params :=
    by cases t <;> simp [returnIf]
@[simp] theorem returnIf_env_pins (t : Bool) : (returnIf t s).env.pins = s.env.pins :=
    by cases t <;> simp [returnIf]
@[simp] theorem returnIf_env_samples (t : Bool) : (returnIf t s).env.samples = s.env.samples :=
    by cases t <;> simp [returnIf]

@[simp] theorem takeInterrupt_regs (v : Word) : (takeInterrupt v s).regs = s.regs :=
    by simp [takeInterrupt]
@[simp] theorem takeInterrupt_flags (v : Word) : (takeInterrupt v s).flags = s.flags :=
    by simp [takeInterrupt]
@[simp] theorem takeInterrupt_tfd (v : Word) : (takeInterrupt v s).tfd = s.tfd :=
    by simp [takeInterrupt]
@[simp] theorem takeInterrupt_params (v : Word) : (takeInterrupt v s).params = s.params :=
    by simp [takeInterrupt]
@[simp] theorem takeInterrupt_env_pins (v : Word) : (takeInterrupt v s).env.pins = s.env.pins :=
    by simp [takeInterrupt]
@[simp] theorem takeInterrupt_env_samples (v : Word) : (takeInterrupt v s).env.samples = s.env.samples :=
    by simp [takeInterrupt]
@[simp] theorem takeInterrupt_env_busIn (v : Word) : (takeInterrupt v s).env.busIn = s.env.busIn :=
    by simp [takeInterrupt]
@[simp] theorem takeInterrupt_env_fresh (v : Word) : (takeInterrupt v s).env.fresh = s.env.fresh :=
    by simp [takeInterrupt]

@[simp] theorem takeInterrupt_pc (v : Word) : (takeInterrupt v s).pc = v := rfl
@[simp] theorem takeInterrupt_sp (v : Word) : (takeInterrupt v s).sp = s.sp - 2 := rfl
@[simp] theorem takeInterrupt_halted (v : Word) : (takeInterrupt v s).halted = false :=
    by simp [takeInterrupt]
@[simp] theorem takeInterrupt_intr (v : Word) : (takeInterrupt v s).intr = { s.intr with ie := false, eiDelay := false } :=
    by simp [takeInterrupt]

end Sys2Proof.Machine
end

