-- ==== Sys2Proof/Laws/Ops.lean ====
section
/-! SUPPORT. For each shared operation over memory, the stack, the bus and control flow: what it can do,
said once; the provers cite these instead of unfolding the operation. -/

namespace Sys2Proof.Machine

variable {s : State}

/-! ## One byte -/

@[simp] theorem peek_poke_same (a : Word) (v : Byte) : (s.poke a v).peek a = v :=
  Memory.get_set_same _ _ _

theorem peek_poke_ne {a b : Word} (v : Byte) (h : b ≠ a) : (s.poke a v).peek b = s.peek b :=
  Memory.get_set_ne _ _ _ _ fun e => h (BitVec.eq_of_toNat_eq e)

theorem poke_wf (a : Word) (v : Byte) (w : s.mem.wf = true) : (s.poke a v).mem.wf = true :=
  Memory.wf_set v a.isLt w

theorem peek_of_mem_eq {t : State} (h : t.mem = s.mem) (a : Word) : t.peek a = s.peek a := by
  simp [State.peek, h]

theorem kindAt_of_params_eq {t : State} (h : t.params = s.params) (a : Word) :
    t.kindAt a = s.kindAt a := by
  simp [State.kindAt, h]

/-! ## The other master -/

theorem dmaAddrs_of_eq {t : State} (hp : t.params = s.params) (hh : t.env.holds = s.env.holds) :
    t.dmaAddrs = s.dmaAddrs := by
  simp [State.dmaAddrs, hp, hh]

theorem dmaAddrs_absent (h : s.params.dmaPresent = false) : s.dmaAddrs = [] := by
  simp [State.dmaAddrs, h]

theorem dmaAddrs_nil (h : s.env.holds = []) : s.dmaAddrs = [] := by
  simp [State.dmaAddrs, h]

/-- A write by the other master changes one ram byte (R73, D18). -/
theorem dmaWrite_cases (w : DmaWrite) :
    (s.kindAt w.1 = .ram ∧ dmaWrite s w = s.poke w.1 w.2) ∨
      (s.kindAt w.1 ≠ .ram ∧ dmaWrite s w = s) := by
  cases h : s.kindAt w.1 <;> simp [dmaWrite, h]

/-- Writes by the other master leave every other byte and every byte that is not ram alone. -/
theorem peek_foldl_dmaWrite {a : Word} (ws : List DmaWrite)
    (h : a ∉ ws.map Prod.fst ∨ s.kindAt a ≠ .ram) : (ws.foldl dmaWrite s).peek a = s.peek a := by
  induction ws generalizing s with
  | nil => rfl
  | cons w ws ih =>
    have kept : (dmaWrite s w).kindAt a = s.kindAt a := kindAt_of_params_eq (by simp) a
    refine (ih (s := dmaWrite s w) (h.imp (fun n m => n (by simp [m])) (by rw [kept]; exact id))).trans ?_
    rcases dmaWrite_cases (s := s) w with ⟨k, e⟩ | ⟨-, e⟩ <;> rw [e]
    refine peek_poke_ne _ ?_
    rintro rfl
    exact h.elim (fun n => n (by simp)) (fun n => n k)

theorem foldl_dmaWrite_wf (ws : List DmaWrite) (w : s.mem.wf = true) :
    (ws.foldl dmaWrite s).mem.wf = true := by
  induction ws generalizing s with
  | nil => exact w
  | cons x ws ih =>
    refine ih (s := dmaWrite s x) ?_
    rcases dmaWrite_cases (s := s) x with ⟨-, e⟩ | ⟨-, e⟩ <;> rw [e]
    · exact poke_wf _ _ w
    · exact w

/-- A hold leaves alone every byte the other master does not write, and every byte that is not ram. -/
theorem peek_holdBus {a : Word} (ws : List DmaWrite)
    (h : (s.params.dmaPresent = true → a ∉ ws.map Prod.fst) ∨ s.kindAt a ≠ .ram) :
    (holdBus ws s).peek a = s.peek a := by
  refine peek_foldl_dmaWrite _ (h.imp (fun n => ?_) id)
  split
  · next p => exact n p
  · simp

theorem holdBus_wf (ws : List DmaWrite) (w : s.mem.wf = true) : (holdBus ws s).mem.wf = true :=
  foldl_dmaWrite_wf _ w

/-- What a machine-cycle boundary can be: nothing, or the next entry of the other master's script (R340). -/
theorem atCycle_cases :
    ((s.params.dmaPresent = false ∨ s.env.holds = []) ∧ s.atCycle = s) ∨
      ∃ h rest, s.params.dmaPresent = true ∧ s.env.holds = h :: rest ∧
        s.atCycle =
          match h with
          | none => { s with env := { s.env with holds := rest } }
          | some ws => holdBus ws { s with env := { s.env with holds := rest } } := by
  cases p : s.params.dmaPresent with
  | false => exact .inl ⟨.inl rfl, atCycle_absent s p⟩
  | true =>
    cases e : s.env.holds with
    | nil => exact .inl ⟨.inr rfl, atCycle_nil s e⟩
    | cons h rest => cases h <;> exact .inr ⟨_, rest, rfl, rfl, by simp [State.atCycle, p, e]⟩

theorem atCycle_holds :
    s.atCycle.env.holds = if s.params.dmaPresent then s.env.holds.drop 1 else s.env.holds := by
  rcases atCycle_cases (s := s) with ⟨h, e⟩ | ⟨h, rest, p, hh, e⟩ <;> rw [e]
  · rcases h with h | h <;> simp [h]
  · cases h <;> simp [p, hh]

theorem dmaAddrs_atCycle {a : Word} (h : a ∉ s.dmaAddrs) : a ∉ s.atCycle.dmaAddrs := by
  simp only [State.dmaAddrs, atCycle_params, atCycle_holds] at h ⊢
  split at h
  · next p =>
    simp only [p, if_true] at h ⊢
    exact fun m => h (List.mem_flatMap.mpr
      ((List.mem_flatMap.mp m).imp fun _ q => ⟨List.mem_of_mem_drop q.1, q.2⟩))
  · next p => simp [p]

/-- A boundary leaves every byte alone that the other master does not write. -/
theorem peek_atCycle {a : Word} (h : a ∉ s.dmaAddrs) : s.atCycle.peek a = s.peek a := by
  rcases atCycle_cases (s := s) with ⟨-, e⟩ | ⟨x, rest, p, hh, e⟩ <;> rw [e]
  cases x with
  | none => rfl
  | some ws =>
    refine peek_holdBus ws (.inl fun _ m => h ?_)
    simp [State.dmaAddrs, p, hh, m]

theorem peek_atCycle_not_ram {a : Word} (h : s.kindAt a ≠ .ram) : s.atCycle.peek a = s.peek a := by
  rcases atCycle_cases (s := s) with ⟨-, e⟩ | ⟨x, rest, -, -, e⟩ <;> rw [e]
  cases x with
  | none => rfl
  | some ws => exact peek_holdBus ws (.inr h)

theorem atCycle_wf (w : s.mem.wf = true) : s.atCycle.mem.wf = true := by
  rcases atCycle_cases (s := s) with ⟨-, e⟩ | ⟨x, rest, -, -, e⟩ <;> rw [e]
  · exact w
  · cases x with
    | none => exact w
    | some ws => exact holdBus_wf ws w

@[simp] theorem kindAt_atCycle (a : Word) : s.atCycle.kindAt a = s.kindAt a :=
  kindAt_of_params_eq (by simp) a

/-! ## Bus transfers -/

/-- What comes over the bus from an address, by its kind (R73). -/
theorem transferIn_cases (a : Word) :
    ((s.kindAt a = .ram ∨ s.kindAt a = .rom) ∧ transferIn s a = (s.peek a, s)) ∨
      (s.kindAt a = .absent ∧ transferIn s a = drawByte s) ∨
      (s.kindAt a = .device ∧
        transferIn s a =
          ((busAnswer s).1, (busAnswer s).2.log (.devRead a (busAnswer s).1))) := by
  cases h : s.kindAt a <;> simp [transferIn, h]

/-- A read of a plain address answers what memory holds at that machine cycle, and changes nothing but what
the other master does before it (R71). -/
theorem memRead_plain {a : Word} (h : s.kindAt a = .ram ∨ s.kindAt a = .rom) :
    memRead s a = (s.atCycle.peek a, s.atCycle) := by
  rcases h with h | h <;> simp [memRead, transferIn, h]

theorem memRead_mem (a : Word) : (memRead s a).2.mem = s.atCycle.mem := by simp [memRead]

/-- What becomes of a byte written, by the kind of the address (R73). -/
theorem transferOut_cases (a : Word) (v : Byte) :
    (s.kindAt a = .ram ∧ transferOut s a v = s.poke a v) ∨
      ((s.kindAt a = .rom ∨ s.kindAt a = .absent) ∧ transferOut s a v = s) ∨
      (s.kindAt a = .device ∧ transferOut s a v = s.log (.devWrite a v)) := by
  cases h : s.kindAt a <;> simp [transferOut, h]

theorem memWrite_ram {a : Word} (v : Byte) (h : s.kindAt a = .ram) :
    memWrite s a v = s.atCycle.poke a v := by
  simp [memWrite, transferOut, h]

theorem peek_transferOut_ne {a b : Word} (v : Byte) (h : b ≠ a) :
    (transferOut s a v).peek b = s.peek b := by
  rcases transferOut_cases (s := s) a v with ⟨-, e⟩ | ⟨-, e⟩ | ⟨-, e⟩ <;> rw [e]
  · exact peek_poke_ne v h
  · exact peek_of_mem_eq (by simp) b

theorem peek_transferOut_not_ram {a b : Word} (v : Byte) (h : s.kindAt b ≠ .ram) :
    (transferOut s a v).peek b = s.peek b := by
  rcases transferOut_cases (s := s) a v with ⟨k, e⟩ | ⟨-, e⟩ | ⟨-, e⟩ <;> rw [e]
  · exact peek_poke_ne v fun q => h (q ▸ k)
  · exact peek_of_mem_eq (by simp) b

theorem memWrite_wf (a : Word) (v : Byte) (w : s.mem.wf = true) :
    (memWrite s a v).mem.wf = true := by
  unfold memWrite
  rcases transferOut_cases (s := s.atCycle) a v with ⟨-, e⟩ | ⟨-, e⟩ | ⟨-, e⟩ <;> rw [e]
  · exact poke_wf a v (atCycle_wf w)
  · exact atCycle_wf w
  · simpa using atCycle_wf w

theorem memRead_wf (a : Word) (w : s.mem.wf = true) : (memRead s a).2.mem.wf = true := by
  rw [memRead_mem]; exact atCycle_wf w

/-! ## What bus transfers leave alone -/

/-- From s to t nothing of memory changed but at the addresses ws and where the other master writes; what it
will still write it would have written from s on. -/
def StoresOnly (s t : State) (ws : List Word) : Prop :=
  t.params = s.params ∧ (∀ a, a ∉ s.dmaAddrs → a ∉ t.dmaAddrs) ∧
    (∀ a, a ∉ ws → a ∉ s.dmaAddrs → t.peek a = s.peek a) ∧
    ∀ a, s.kindAt a ≠ .ram → t.peek a = s.peek a

theorem StoresOnly.of_eq {t : State} (hp : t.params = s.params) (hm : t.mem = s.mem)
    (hh : t.env.holds = s.env.holds) : StoresOnly s t [] :=
  ⟨hp, fun _ h => by rwa [dmaAddrs_of_eq hp hh], fun a _ _ => peek_of_mem_eq hm a,
    fun a _ => peek_of_mem_eq hm a⟩

theorem StoresOnly.trans {t u : State} {ws vs : List Word} (h : StoresOnly s t ws)
    (g : StoresOnly t u vs) : StoresOnly s u (ws ++ vs) := by
  refine ⟨g.1.trans h.1, fun a n => g.2.1 a (h.2.1 a n), fun a n m => ?_, fun a n => ?_⟩
  · rw [List.mem_append, not_or] at n
    exact (g.2.2.1 a n.2 (h.2.1 a m)).trans (h.2.2.1 a n.1 m)
  · exact (g.2.2.2 a (by rwa [kindAt_of_params_eq h.1])).trans (h.2.2.2 a n)

theorem StoresOnly.mono {t : State} {ws vs : List Word} (h : StoresOnly s t ws)
    (sub : ∀ a, a ∈ ws → a ∈ vs) : StoresOnly s t vs :=
  ⟨h.1, h.2.1, fun a n m => h.2.2.1 a (fun q => n (sub a q)) m, h.2.2.2⟩

/-- The same after an update that touches neither memory nor the other master. -/
theorem StoresOnly.after {t u : State} {ws : List Word} (h : StoresOnly s t ws)
    (hp : u.params = t.params) (hm : u.mem = t.mem) (hh : u.env.holds = t.env.holds) :
    StoresOnly s u ws :=
  (h.trans (.of_eq hp hm hh)).mono fun _ => by simp

theorem storesOnly_atCycle : StoresOnly s s.atCycle [] :=
  ⟨by simp, fun _ => dmaAddrs_atCycle, fun _ _ => peek_atCycle, fun _ => peek_atCycle_not_ram⟩

theorem storesOnly_memRead (a : Word) : StoresOnly s (memRead s a).2 [] :=
  storesOnly_atCycle.trans (.of_eq (by simp [memRead]) (memRead_mem a) (by simp [memRead]))

theorem storesOnly_memWrite (a : Word) (v : Byte) : StoresOnly s (memWrite s a v) [a] := by
  refine storesOnly_atCycle.trans (ws := []) (vs := [a]) ⟨by simp [memWrite], fun b h => ?_, fun b h _ => ?_,
    fun b h => peek_transferOut_not_ram v h⟩
  · rwa [dmaAddrs_of_eq (s := s.atCycle) (by simp [memWrite]) (by simp [memWrite])]
  · exact peek_transferOut_ne v (by simpa using h)

/-- A write leaves every other address alone, whatever the kind. -/
theorem peek_memWrite_ne {a b : Word} (v : Byte) (h : b ≠ a) (d : b ∉ s.dmaAddrs) :
    (memWrite s a v).peek b = s.peek b :=
  (storesOnly_memWrite a v).2.2.1 b (by simpa using h) d

/-- A byte written to ram reads back at once. -/
theorem peek_memWrite_ram {a : Word} (v : Byte) (h : s.kindAt a = .ram) :
    (memWrite s a v).peek a = v := by
  rw [memWrite_ram v h]; exact peek_poke_same a v

@[simp] theorem kindAt_memWrite (a b : Word) (v : Byte) :
    (memWrite s a v).kindAt b = s.kindAt b := kindAt_of_params_eq (by simp) b

@[simp] theorem kindAt_memRead (a b : Word) : (memRead s a).2.kindAt b = s.kindAt b :=
  kindAt_of_params_eq (by simp) b

/-! ## Two bytes and the stack -/

theorem word_succ_ne (a : Word) : a + 1 ≠ a := by
  intro h
  have := congrArg BitVec.toNat h
  simp at this
  omega

theorem stack_slots_ne (a : Word) : a - 1 ≠ a - 2 := by
  intro h
  have := congrArg BitVec.toNat h
  simp at this
  omega

/-- A two-byte read of plain memory: each byte as it stands at its own machine cycle (R66, R69). -/
theorem memRead16_plain {a : Word} (h : s.kindAt a = .ram ∨ s.kindAt a = .rom)
    (h' : s.kindAt (a + 1) = .ram ∨ s.kindAt (a + 1) = .rom) :
    memRead16 s a =
      (mkWord (s.atCycle.atCycle.peek (a + 1)) (s.atCycle.peek a), s.atCycle.atCycle) := by
  simp only [memRead16, memRead_plain h]
  rw [memRead_plain (by simpa using h')]

/-- The same where the other master does not write: what memory holds. -/
theorem memRead16_quiet {a : Word} (h : s.kindAt a = .ram ∨ s.kindAt a = .rom)
    (h' : s.kindAt (a + 1) = .ram ∨ s.kindAt (a + 1) = .rom) (d : a ∉ s.dmaAddrs)
    (d' : a + 1 ∉ s.dmaAddrs) : (memRead16 s a).1 = mkWord (s.peek (a + 1)) (s.peek a) := by
  rw [memRead16_plain h h', peek_atCycle d, peek_atCycle (dmaAddrs_atCycle d'), peek_atCycle d']

theorem storesOnly_memRead16 (a : Word) : StoresOnly s (memRead16 s a).2 [] :=
  (storesOnly_memRead a).trans (storesOnly_memRead (a + 1))

theorem storesOnly_memWrite16 (a v : Word) : StoresOnly s (memWrite16 s a v) [a, a + 1] :=
  (storesOnly_memWrite a _).trans (storesOnly_memWrite (a + 1) _)

theorem memWrite16_wf (a v : Word) (w : s.mem.wf = true) : (memWrite16 s a v).mem.wf = true :=
  memWrite_wf _ _ (memWrite_wf _ _ w)

theorem storesOnly_push16 (v : Word) : StoresOnly s (push16 s v) [s.sp - 1, s.sp - 2] :=
  ((storesOnly_memWrite (s.sp - 1) _).trans (storesOnly_memWrite (s.sp - 2) _)).trans
    (vs := []) (.of_eq rfl rfl rfl)

theorem storesOnly_pop16 : StoresOnly s (pop16 s).2 [] :=
  (storesOnly_memRead16 s.sp).trans (.of_eq rfl rfl rfl)

/-- A push onto ram (R140). -/
theorem push16_ram (v : Word) (h1 : s.kindAt (s.sp - 1) = .ram) (h2 : s.kindAt (s.sp - 2) = .ram)
    (d : s.sp - 1 ∉ s.dmaAddrs) :
    (push16 s v).peek (s.sp - 1) = hiByte v ∧ (push16 s v).peek (s.sp - 2) = loByte v := by
  have first := (storesOnly_memWrite (s := s) (s.sp - 1) (hiByte v)).2.1 _ d
  exact ⟨(peek_memWrite_ne _ (stack_slots_ne s.sp) first).trans (peek_memWrite_ram _ h1),
    peek_memWrite_ram _ (by simpa using h2)⟩

theorem push16_wf (v : Word) (w : s.mem.wf = true) : (push16 s v).mem.wf = true :=
  memWrite_wf _ _ (memWrite_wf _ _ w)

theorem pop16_wf (w : s.mem.wf = true) : (pop16 s).2.mem.wf = true :=
  memRead_wf _ (memRead_wf _ w)

/-- A pop from plain memory (R141). -/
theorem pop16_quiet (h : s.kindAt s.sp = .ram ∨ s.kindAt s.sp = .rom)
    (h' : s.kindAt (s.sp + 1) = .ram ∨ s.kindAt (s.sp + 1) = .rom) (d : s.sp ∉ s.dmaAddrs)
    (d' : s.sp + 1 ∉ s.dmaAddrs) :
    (pop16 s).1 = mkWord (s.peek (s.sp + 1)) (s.peek s.sp) :=
  memRead16_quiet h h' d d'

/-- The canonical form is kept by whatever leaves memory alone. -/
theorem wf_of_mem_eq {t : State} (h : t.mem = s.mem) (w : s.mem.wf = true) : t.mem.wf = true := by
  rw [h]; exact w

theorem callTo_wf (a : Word) (w : s.mem.wf = true) : (callTo a s).mem.wf = true := push16_wf _ w

theorem callIf_wf (t : Bool) (a : Word) (w : s.mem.wf = true) : (callIf t a s).mem.wf = true := by
  cases t
  · exact w
  · exact callTo_wf a w

theorem takeInterrupt_wf (v : Word) (w : s.mem.wf = true) : (takeInterrupt v s).mem.wf = true :=
  callTo_wf v w

/-! ## The ten unnamed instructions, the bus and the free values -/

/-- What one of the ten answers: its effect where EXT10 is `admitted`, and only there (R101). -/
theorem ifAdmitted_next {m : String} {t u : State} :
    ifAdmitted s m t = .next u ↔ s.params.ext10 = true ∧ t = u := by
  unfold ifAdmitted; split <;> simp_all

theorem ifAdmitted_refused {m : String} {t : State} (h : s.params.ext10 = false) :
    ifAdmitted s m t = .refused (.ext10 m) := by
  simp [ifAdmitted, h]

/-- What the environment answers: the script's next byte, or a free one (R63). -/
theorem busAnswer_cases :
    (s.env.busIn = [] ∧ busAnswer s = (Config.freeByte s.env.fresh, s.nextFresh)) ∨
      ∃ v rest, s.env.busIn = v :: rest ∧
        busAnswer s = (v, { s with env := { s.env with busIn := rest } }) := by
  cases h : s.env.busIn with
  | nil => exact .inl ⟨rfl, by simp [busAnswer, h, drawByte]⟩
  | cons v rest => exact .inr ⟨v, rest, rfl, by simp [busAnswer, h]⟩

/-! ## Which accesses the bus carries -/

theorem transfers_of_eq {t : State} (hp : t.params = s.params) (ht : t.env.trace = s.env.trace)
    (hb : t.env.busIn = s.env.busIn) (hh : t.env.holds = s.env.holds) : Transfers s t [] :=
  ⟨hp, ⟨[], by simp [ht]⟩, by simp [hb], by simp [hh]⟩

theorem shows_of_params_eq {t : State} (h : t.params = s.params) (x : Access) :
    t.shows x = s.shows x := by
  cases x <;> simp only [State.shows, kindAt_of_params_eq h]

theorem Transfers.trans {t u : State} {as bs : List Access} (h : Transfers s t as)
    (g : Transfers t u bs) : Transfers s u (as ++ bs) := by
  obtain ⟨hp, ⟨es, he, ho, hf⟩, hb, hh⟩ := h
  obtain ⟨gp, ⟨fs, ge, go, gf⟩, gb, gh⟩ := g
  have shows : bs.filter t.shows = bs.filter s.shows :=
    List.filter_congr fun x _ => shows_of_params_eq hp x
  refine ⟨gp.trans hp, ⟨fs ++ es, ?_, ?_, ?_⟩, ?_, ?_⟩
  · rw [ge, he, List.append_assoc]
  · exact fun e m => (List.mem_append.mp m).elim (go e) (ho e)
  · rw [List.reverse_append, List.filterMap_append, hf, gf, shows, List.filter_append]
  · rw [gb, hb, shows, List.drop_drop, List.filter_append, List.countP_append]
  · rw [gh, hh, hp]
    split <;> simp [List.drop_drop]

/-- The same after an update that touches no field the bus sees. -/
theorem Transfers.after {t u : State} {as : List Access} (h : Transfers s t as)
    (hp : u.params = t.params) (ht : u.env.trace = t.env.trace) (hb : u.env.busIn = t.env.busIn)
    (hh : u.env.holds = t.env.holds) : Transfers s u as := by
  simpa using h.trans (transfers_of_eq hp ht hb hh)

/-- A boundary followed by one access, which shows on the bus by its own event. -/
theorem transfers_atCycle_then {t : State} (x : Access) (hp : t.params = s.params)
    (hh : t.env.holds = s.atCycle.env.holds)
    (seen : (s.shows x = false ∧ t.env.trace = s.atCycle.env.trace ∧ t.env.busIn = s.env.busIn) ∨
      (s.shows x = true ∧ ∃ e, e.access = some x ∧ t.env.trace = e :: s.atCycle.env.trace ∧
        t.env.busIn = s.env.busIn.drop (if x.isRead then 1 else 0))) :
    Transfers s t [x] := by
  obtain ⟨hs, hl, ha⟩ : ∃ hs, s.atCycle.env.trace = hs ++ s.env.trace ∧ ∀ e ∈ hs, e = Event.holdAck := by
    rcases atCycle_cases (s := s) with ⟨-, e⟩ | ⟨h, rest, -, -, e⟩ <;> rw [e]
    · exact ⟨[], rfl, by simp⟩
    · cases h with
      | none => exact ⟨[], rfl, by simp⟩
      | some ws => exact ⟨[.holdAck], by simp, by simp⟩
  have silent : hs.reverse.filterMap Event.access = [] := by
    rw [List.filterMap_eq_nil_iff]
    exact fun e m => by rw [ha e (List.mem_reverse.mp m)]; rfl
  refine ⟨hp, ?_, ?_, by rw [hh, atCycle_holds]; simp⟩
  · rcases seen with ⟨n, tr, -⟩ | ⟨y, e, ex, tr, -⟩
    · exact ⟨hs, by rw [tr, hl], fun e m => .inl (ha e m), by simp [silent, n]⟩
    · refine ⟨e :: hs, by rw [tr, hl]; rfl, ?_, ?_⟩
      · rintro f (_ | ⟨_, m⟩)
        · exact .inr (by simp [ex])
        · exact .inl (ha f m)
      · simp [silent, y, ex]
  · rcases seen with ⟨n, -, b⟩ | ⟨y, -, -, -, b⟩
    · simp [b, n]
    · rw [b]; cases x <;> simp [y, Access.isRead]

theorem busAnswer_busIn : (busAnswer s).2.env.busIn = s.env.busIn.drop 1 := by
  rcases busAnswer_cases (s := s) with ⟨h, e⟩ | ⟨v, rest, h, e⟩ <;> rw [e] <;> simp [h]

theorem transfers_memRead (a : Word) : Transfers s (memRead s a).2 [.read a] := by
  refine transfers_atCycle_then _ (by simp) (by simp [memRead]) ?_
  unfold memRead
  rcases transferIn_cases (s := s.atCycle) a with ⟨k, e⟩ | ⟨k, e⟩ | ⟨k, e⟩ <;> rw [kindAt_atCycle] at k <;>
    rw [e]
  · exact .inl ⟨by rcases k with k | k <;> simp [State.shows, k], rfl, by simp⟩
  · exact .inl ⟨by simp [State.shows, k], by simp, by simp⟩
  · exact .inr ⟨by simp [State.shows, k], .devRead a (busAnswer s.atCycle).1, rfl, by simp,
      by simp [busAnswer_busIn, Access.isRead]⟩

theorem transfers_memWrite (a : Word) (v : Byte) : Transfers s (memWrite s a v) [.write a] := by
  refine transfers_atCycle_then _ (by simp) (by simp [memWrite]) ?_
  unfold memWrite
  rcases transferOut_cases (s := s.atCycle) a v with ⟨k, e⟩ | ⟨k, e⟩ | ⟨k, e⟩ <;>
    rw [kindAt_atCycle] at k <;> rw [e]
  · exact .inl ⟨by simp [State.shows, k], rfl, by simp⟩
  · exact .inl ⟨by rcases k with k | k <;> simp [State.shows, k], rfl, by simp⟩
  · exact .inr ⟨by simp [State.shows, k], .devWrite a v, rfl, by simp, by simp [Access.isRead]⟩

theorem transfers_ioRead (p : Byte) : Transfers s (ioRead s p).2 [.portIn p] :=
  transfers_atCycle_then _ (by simp) (by simp [ioRead])
    (.inr ⟨rfl, .ioRead p (busAnswer s.atCycle).1, rfl, by simp [ioRead], by simp [ioRead, busAnswer_busIn, Access.isRead]⟩)

theorem transfers_ioWrite (p v : Byte) : Transfers s (ioWrite s p v) [.portOut p] :=
  transfers_atCycle_then _ (by simp) (by simp [ioWrite])
    (.inr ⟨rfl, .ioWrite p v, rfl, by simp [ioWrite], by simp [Access.isRead]⟩)

theorem transfers_memRead16 (a : Word) :
    Transfers s (memRead16 s a).2 [.read a, .read (a + 1)] :=
  (transfers_memRead a).trans (transfers_memRead (a + 1))

theorem transfers_memWrite16 (a v : Word) :
    Transfers s (memWrite16 s a v) [.write a, .write (a + 1)] :=
  (transfers_memWrite a _).trans (transfers_memWrite (a + 1) _)

theorem transfers_push16 (v : Word) : Transfers s (push16 s v) (pushes s) :=
  ((transfers_memWrite (s.sp - 1) _).trans (transfers_memWrite (s.sp - 2) _)).trans
    (bs := []) (transfers_of_eq rfl rfl rfl rfl)

theorem transfers_pop16 : Transfers s (pop16 s).2 (pops s) :=
  (transfers_memRead16 s.sp).trans (bs := []) (transfers_of_eq rfl rfl rfl rfl)

/-! ## Reset in the middle of a slot -/

/-- The torn bytes are ram, hold free values, and no other byte changes (R351). -/
theorem tearByte_cases (a : Word) :
    (s.kindAt a = .ram ∧ tearByte s a = s.nextFresh.poke a (Config.freeByte s.env.fresh)) ∨
      (s.kindAt a ≠ .ram ∧ tearByte s a = s) := by
  cases h : s.kindAt a <;> simp [tearByte, drawByte, h]

theorem tearByte_wf (a : Word) (w : s.mem.wf = true) : (tearByte s a).mem.wf = true := by
  rcases tearByte_cases (s := s) a with ⟨-, e⟩ | ⟨-, e⟩ <;> rw [e]
  · exact poke_wf _ _ w
  · exact w

@[simp] theorem tearByte_params (a : Word) : (tearByte s a).params = s.params := by
  rcases tearByte_cases (s := s) a with ⟨-, e⟩ | ⟨-, e⟩ <;> simp [e]

theorem foldl_tearByte_params (as : List Word) : (as.foldl tearByte s).params = s.params := by
  induction as generalizing s with
  | nil => rfl
  | cons a as ih => exact ih.trans (tearByte_params a)

theorem foldl_tearByte_wf (as : List Word) (w : s.mem.wf = true) :
    (as.foldl tearByte s).mem.wf = true := by
  induction as generalizing s with
  | nil => exact w
  | cons a as ih => exact ih (tearByte_wf a w)

theorem peek_foldl_tearByte {b : Word} (as : List Word) (h : b ∉ as ∨ s.kindAt b ≠ .ram) :
    (as.foldl tearByte s).peek b = s.peek b := by
  induction as generalizing s with
  | nil => rfl
  | cons a as ih =>
    have kept : (tearByte s a).kindAt b = s.kindAt b := kindAt_of_params_eq (by simp) b
    refine (ih (h.imp (fun n m => n (by simp [m])) (by rw [kept]; exact id))).trans ?_
    rcases tearByte_cases (s := s) a with ⟨k, e⟩ | ⟨-, e⟩ <;> rw [e]
    refine (peek_poke_ne _ ?_).trans rfl
    rintro rfl
    exact h.elim (fun n => n (by simp)) (fun n => n k)

end Sys2Proof.Machine
end

