-- ==== Sys2Proof/Laws/PerInstr.lean ====
section
/-! SUPPORT. The encoder's length is the one the first byte fixes, instruction by instruction
(30_encoding.md section 1). -/

namespace Sys2Proof.Laws

/-- The encoding of a well-formed instruction has the length its first byte fixes (R97). -/
def EncodeLength.Statement (i : Instr) : Prop :=
  i.wellFormed = true → ∃ b rest, encode i = b :: rest ∧ (encode i).length = lengthOf b

variable {i : Instr}

/-- The statement from the first byte and the bytes after it. -/
theorem EncodeLength.of_cons {b : Byte} {rest : List Byte} (h : encode i = b :: rest)
    (l : rest.length + 1 = lengthOf b) : EncodeLength.Statement i :=
  fun _ => ⟨b, rest, h, by rw [h]; exact l⟩

theorem EncodeLength.movRR (dst src : Reg) : EncodeLength.Statement (.movRR dst src) := by
  cases dst <;> cases src <;> exact EncodeLength.of_cons rfl rfl

theorem EncodeLength.movRM (dst : Reg) : EncodeLength.Statement (.movRM dst) := by
  cases dst <;> exact EncodeLength.of_cons rfl rfl

theorem EncodeLength.movMR (src : Reg) : EncodeLength.Statement (.movMR src) := by
  cases src <;> exact EncodeLength.of_cons rfl rfl

theorem EncodeLength.hlt : EncodeLength.Statement .hlt :=
  EncodeLength.of_cons rfl rfl

theorem EncodeLength.mviR (dst : Reg) (d8 : Byte) : EncodeLength.Statement (.mviR dst d8) := by
  cases dst <;> exact EncodeLength.of_cons rfl rfl

theorem EncodeLength.mviM (d8 : Byte) : EncodeLength.Statement (.mviM d8) :=
  EncodeLength.of_cons rfl rfl

theorem EncodeLength.lxi (rp : Pair) (d16 : Word) : EncodeLength.Statement (.lxi rp d16) := by
  cases rp <;> exact EncodeLength.of_cons rfl rfl

theorem EncodeLength.lda (a16 : Word) : EncodeLength.Statement (.lda a16) :=
  EncodeLength.of_cons rfl rfl

theorem EncodeLength.sta (a16 : Word) : EncodeLength.Statement (.sta a16) :=
  EncodeLength.of_cons rfl rfl

theorem EncodeLength.lhld (a16 : Word) : EncodeLength.Statement (.lhld a16) :=
  EncodeLength.of_cons rfl rfl

theorem EncodeLength.shld (a16 : Word) : EncodeLength.Statement (.shld a16) :=
  EncodeLength.of_cons rfl rfl

theorem EncodeLength.ldax (rp : Pair) : EncodeLength.Statement (.ldax rp) := by
  intro h
  cases rp <;> first | exact EncodeLength.of_cons rfl rfl h | exact nomatch h

theorem EncodeLength.stax (rp : Pair) : EncodeLength.Statement (.stax rp) := by
  intro h
  cases rp <;> first | exact EncodeLength.of_cons rfl rfl h | exact nomatch h

theorem EncodeLength.xchg : EncodeLength.Statement .xchg :=
  EncodeLength.of_cons rfl rfl

theorem EncodeLength.ldhi (d8 : Byte) : EncodeLength.Statement (.ldhi d8) :=
  EncodeLength.of_cons rfl rfl

theorem EncodeLength.ldsi (d8 : Byte) : EncodeLength.Statement (.ldsi d8) :=
  EncodeLength.of_cons rfl rfl

theorem EncodeLength.lhlx : EncodeLength.Statement .lhlx :=
  EncodeLength.of_cons rfl rfl

theorem EncodeLength.shlx : EncodeLength.Statement .shlx :=
  EncodeLength.of_cons rfl rfl

theorem EncodeLength.push (rp : Pair) : EncodeLength.Statement (.push rp) := by
  cases rp <;> exact EncodeLength.of_cons rfl rfl

theorem EncodeLength.pushPsw : EncodeLength.Statement .pushPsw :=
  EncodeLength.of_cons rfl rfl

theorem EncodeLength.pop (rp : Pair) : EncodeLength.Statement (.pop rp) := by
  cases rp <;> exact EncodeLength.of_cons rfl rfl

theorem EncodeLength.popPsw : EncodeLength.Statement .popPsw :=
  EncodeLength.of_cons rfl rfl

theorem EncodeLength.xthl : EncodeLength.Statement .xthl :=
  EncodeLength.of_cons rfl rfl

theorem EncodeLength.sphl : EncodeLength.Statement .sphl :=
  EncodeLength.of_cons rfl rfl

theorem EncodeLength.jmp (a16 : Word) : EncodeLength.Statement (.jmp a16) :=
  EncodeLength.of_cons rfl rfl

theorem EncodeLength.jnz (a16 : Word) : EncodeLength.Statement (.jnz a16) :=
  EncodeLength.of_cons rfl rfl

theorem EncodeLength.jz (a16 : Word) : EncodeLength.Statement (.jz a16) :=
  EncodeLength.of_cons rfl rfl

theorem EncodeLength.jnc (a16 : Word) : EncodeLength.Statement (.jnc a16) :=
  EncodeLength.of_cons rfl rfl

theorem EncodeLength.jc (a16 : Word) : EncodeLength.Statement (.jc a16) :=
  EncodeLength.of_cons rfl rfl

theorem EncodeLength.jpo (a16 : Word) : EncodeLength.Statement (.jpo a16) :=
  EncodeLength.of_cons rfl rfl

theorem EncodeLength.jpe (a16 : Word) : EncodeLength.Statement (.jpe a16) :=
  EncodeLength.of_cons rfl rfl

theorem EncodeLength.jp (a16 : Word) : EncodeLength.Statement (.jp a16) :=
  EncodeLength.of_cons rfl rfl

theorem EncodeLength.jm (a16 : Word) : EncodeLength.Statement (.jm a16) :=
  EncodeLength.of_cons rfl rfl

theorem EncodeLength.pchl : EncodeLength.Statement .pchl :=
  EncodeLength.of_cons rfl rfl

theorem EncodeLength.call (a16 : Word) : EncodeLength.Statement (.call a16) :=
  EncodeLength.of_cons rfl rfl

theorem EncodeLength.cnz (a16 : Word) : EncodeLength.Statement (.cnz a16) :=
  EncodeLength.of_cons rfl rfl

theorem EncodeLength.cz (a16 : Word) : EncodeLength.Statement (.cz a16) :=
  EncodeLength.of_cons rfl rfl

theorem EncodeLength.cnc (a16 : Word) : EncodeLength.Statement (.cnc a16) :=
  EncodeLength.of_cons rfl rfl

theorem EncodeLength.cc (a16 : Word) : EncodeLength.Statement (.cc a16) :=
  EncodeLength.of_cons rfl rfl

theorem EncodeLength.cpo (a16 : Word) : EncodeLength.Statement (.cpo a16) :=
  EncodeLength.of_cons rfl rfl

theorem EncodeLength.cpe (a16 : Word) : EncodeLength.Statement (.cpe a16) :=
  EncodeLength.of_cons rfl rfl

theorem EncodeLength.cp (a16 : Word) : EncodeLength.Statement (.cp a16) :=
  EncodeLength.of_cons rfl rfl

theorem EncodeLength.cm (a16 : Word) : EncodeLength.Statement (.cm a16) :=
  EncodeLength.of_cons rfl rfl

theorem EncodeLength.jnk (a16 : Word) : EncodeLength.Statement (.jnk a16) :=
  EncodeLength.of_cons rfl rfl

theorem EncodeLength.jk (a16 : Word) : EncodeLength.Statement (.jk a16) :=
  EncodeLength.of_cons rfl rfl

theorem EncodeLength.ret : EncodeLength.Statement .ret :=
  EncodeLength.of_cons rfl rfl

theorem EncodeLength.rnz : EncodeLength.Statement .rnz :=
  EncodeLength.of_cons rfl rfl

theorem EncodeLength.rz : EncodeLength.Statement .rz :=
  EncodeLength.of_cons rfl rfl

theorem EncodeLength.rnc : EncodeLength.Statement .rnc :=
  EncodeLength.of_cons rfl rfl

theorem EncodeLength.rc : EncodeLength.Statement .rc :=
  EncodeLength.of_cons rfl rfl

theorem EncodeLength.rpo : EncodeLength.Statement .rpo :=
  EncodeLength.of_cons rfl rfl

theorem EncodeLength.rpe : EncodeLength.Statement .rpe :=
  EncodeLength.of_cons rfl rfl

theorem EncodeLength.rp : EncodeLength.Statement .rp :=
  EncodeLength.of_cons rfl rfl

theorem EncodeLength.rm : EncodeLength.Statement .rm :=
  EncodeLength.of_cons rfl rfl

theorem EncodeLength.rst (n : BitVec 3) : EncodeLength.Statement (.rst n) := by
  refine EncodeLength.of_cons rfl ?_
  revert n; decide

theorem EncodeLength.rstv : EncodeLength.Statement .rstv :=
  EncodeLength.of_cons rfl rfl

theorem EncodeLength.inPort (p8 : Byte) : EncodeLength.Statement (.inPort p8) :=
  EncodeLength.of_cons rfl rfl

theorem EncodeLength.outPort (p8 : Byte) : EncodeLength.Statement (.outPort p8) :=
  EncodeLength.of_cons rfl rfl

theorem EncodeLength.addR (src : Reg) : EncodeLength.Statement (.addR src) := by
  cases src <;> exact EncodeLength.of_cons rfl rfl

theorem EncodeLength.addM : EncodeLength.Statement .addM :=
  EncodeLength.of_cons rfl rfl

theorem EncodeLength.adi (d8 : Byte) : EncodeLength.Statement (.adi d8) :=
  EncodeLength.of_cons rfl rfl

theorem EncodeLength.adcR (src : Reg) : EncodeLength.Statement (.adcR src) := by
  cases src <;> exact EncodeLength.of_cons rfl rfl

theorem EncodeLength.adcM : EncodeLength.Statement .adcM :=
  EncodeLength.of_cons rfl rfl

theorem EncodeLength.aci (d8 : Byte) : EncodeLength.Statement (.aci d8) :=
  EncodeLength.of_cons rfl rfl

theorem EncodeLength.subR (src : Reg) : EncodeLength.Statement (.subR src) := by
  cases src <;> exact EncodeLength.of_cons rfl rfl

theorem EncodeLength.subM : EncodeLength.Statement .subM :=
  EncodeLength.of_cons rfl rfl

theorem EncodeLength.sui (d8 : Byte) : EncodeLength.Statement (.sui d8) :=
  EncodeLength.of_cons rfl rfl

theorem EncodeLength.sbbR (src : Reg) : EncodeLength.Statement (.sbbR src) := by
  cases src <;> exact EncodeLength.of_cons rfl rfl

theorem EncodeLength.sbbM : EncodeLength.Statement .sbbM :=
  EncodeLength.of_cons rfl rfl

theorem EncodeLength.sbi (d8 : Byte) : EncodeLength.Statement (.sbi d8) :=
  EncodeLength.of_cons rfl rfl

theorem EncodeLength.anaR (src : Reg) : EncodeLength.Statement (.anaR src) := by
  cases src <;> exact EncodeLength.of_cons rfl rfl

theorem EncodeLength.anaM : EncodeLength.Statement .anaM :=
  EncodeLength.of_cons rfl rfl

theorem EncodeLength.ani (d8 : Byte) : EncodeLength.Statement (.ani d8) :=
  EncodeLength.of_cons rfl rfl

theorem EncodeLength.xraR (src : Reg) : EncodeLength.Statement (.xraR src) := by
  cases src <;> exact EncodeLength.of_cons rfl rfl

theorem EncodeLength.xraM : EncodeLength.Statement .xraM :=
  EncodeLength.of_cons rfl rfl

theorem EncodeLength.xri (d8 : Byte) : EncodeLength.Statement (.xri d8) :=
  EncodeLength.of_cons rfl rfl

theorem EncodeLength.oraR (src : Reg) : EncodeLength.Statement (.oraR src) := by
  cases src <;> exact EncodeLength.of_cons rfl rfl

theorem EncodeLength.oraM : EncodeLength.Statement .oraM :=
  EncodeLength.of_cons rfl rfl

theorem EncodeLength.ori (d8 : Byte) : EncodeLength.Statement (.ori d8) :=
  EncodeLength.of_cons rfl rfl

theorem EncodeLength.cmpR (src : Reg) : EncodeLength.Statement (.cmpR src) := by
  cases src <;> exact EncodeLength.of_cons rfl rfl

theorem EncodeLength.cmpM : EncodeLength.Statement .cmpM :=
  EncodeLength.of_cons rfl rfl

theorem EncodeLength.cpi (d8 : Byte) : EncodeLength.Statement (.cpi d8) :=
  EncodeLength.of_cons rfl rfl

theorem EncodeLength.dad (rp : Pair) : EncodeLength.Statement (.dad rp) := by
  cases rp <;> exact EncodeLength.of_cons rfl rfl

theorem EncodeLength.dsub : EncodeLength.Statement .dsub :=
  EncodeLength.of_cons rfl rfl

theorem EncodeLength.rlc : EncodeLength.Statement .rlc :=
  EncodeLength.of_cons rfl rfl

theorem EncodeLength.rrc : EncodeLength.Statement .rrc :=
  EncodeLength.of_cons rfl rfl

theorem EncodeLength.ral : EncodeLength.Statement .ral :=
  EncodeLength.of_cons rfl rfl

theorem EncodeLength.rar : EncodeLength.Statement .rar :=
  EncodeLength.of_cons rfl rfl

theorem EncodeLength.arhl : EncodeLength.Statement .arhl :=
  EncodeLength.of_cons rfl rfl

theorem EncodeLength.rdel : EncodeLength.Statement .rdel :=
  EncodeLength.of_cons rfl rfl

theorem EncodeLength.inrR (dst : Reg) : EncodeLength.Statement (.inrR dst) := by
  cases dst <;> exact EncodeLength.of_cons rfl rfl

theorem EncodeLength.inrM : EncodeLength.Statement .inrM :=
  EncodeLength.of_cons rfl rfl

theorem EncodeLength.dcrR (dst : Reg) : EncodeLength.Statement (.dcrR dst) := by
  cases dst <;> exact EncodeLength.of_cons rfl rfl

theorem EncodeLength.dcrM : EncodeLength.Statement .dcrM :=
  EncodeLength.of_cons rfl rfl

theorem EncodeLength.inx (rp : Pair) : EncodeLength.Statement (.inx rp) := by
  cases rp <;> exact EncodeLength.of_cons rfl rfl

theorem EncodeLength.dcx (rp : Pair) : EncodeLength.Statement (.dcx rp) := by
  cases rp <;> exact EncodeLength.of_cons rfl rfl

theorem EncodeLength.daa : EncodeLength.Statement .daa :=
  EncodeLength.of_cons rfl rfl

theorem EncodeLength.cma : EncodeLength.Statement .cma :=
  EncodeLength.of_cons rfl rfl

theorem EncodeLength.stc : EncodeLength.Statement .stc :=
  EncodeLength.of_cons rfl rfl

theorem EncodeLength.cmc : EncodeLength.Statement .cmc :=
  EncodeLength.of_cons rfl rfl

theorem EncodeLength.rim : EncodeLength.Statement .rim :=
  EncodeLength.of_cons rfl rfl

theorem EncodeLength.sim : EncodeLength.Statement .sim :=
  EncodeLength.of_cons rfl rfl

theorem EncodeLength.nop : EncodeLength.Statement .nop :=
  EncodeLength.of_cons rfl rfl

theorem EncodeLength.ei : EncodeLength.Statement .ei :=
  EncodeLength.of_cons rfl rfl

theorem EncodeLength.di : EncodeLength.Statement .di :=
  EncodeLength.of_cons rfl rfl

end Sys2Proof.Laws
end

