-- ==== Sys2Proof/Machine/Timing.lean ====
section
/-! DEFINITION. The informative timing tables (70_reset_and_hazards.md section 4). No rule depends on time
and no step reads them (R366; entry 17). `taken` says whether a conditional jump, call, return or RSTV is
taken; it plays no part in another instruction. -/

namespace Sys2Proof.Machine

/-- The instructions with a bus-idle cycle, whose count of machine cycles the spec does not give (R367). -/
def hasIdleCycle : Instr → Bool
  | .dad _ | .dsub | .rdel | .ldhi _ | .ldsi _ => true
  | _ => false

/-- Machine cycles of an instruction executed from s: the opcode fetch, the further instruction bytes and the
data accesses (R367). -/
def machineCycles (i : Instr) (s : State) : Option Nat :=
  if hasIdleCycle i then none else some ((encode i).length + (accesses i s).length)

/-- Clock periods (R368). -/
def tStates (taken : Bool) : Instr → Nat
  | .hlt => 5
  | .pchl | .sphl | .inx _ | .dcx _ => 6
  | .movRM _ | .movMR _ | .mviR _ _ | .ldax _ | .stax _ => 7
  | .addM | .adcM | .subM | .sbbM | .anaM | .xraM | .oraM | .cmpM => 7
  | .adi _ | .aci _ | .sui _ | .sbi _ | .ani _ | .xri _ | .ori _ | .cpi _ | .arhl => 7
  | .jnz _ | .jz _ | .jnc _ | .jc _ | .jpo _ | .jpe _ | .jp _ | .jm _ | .jnk _ | .jk _ =>
    if taken then 10 else 7
  | .mviM _ | .lxi _ _ | .inrM | .dcrM | .dad _ | .jmp _ | .ret | .pop _ | .popPsw => 10
  | .inPort _ | .outPort _ | .dsub | .rdel | .ldhi _ | .ldsi _ | .shlx | .lhlx => 10
  | .rstv => if taken then 12 else 6
  | .rnz | .rz | .rnc | .rc | .rpo | .rpe | .rp | .rm => if taken then 12 else 6
  | .push _ | .pushPsw | .rst _ => 12
  | .lda _ | .sta _ => 13
  | .lhld _ | .shld _ | .xthl => 16
  | .cnz _ | .cz _ | .cnc _ | .cc _ | .cpo _ | .cpe _ | .cp _ | .cm _ => if taken then 18 else 9
  | .call _ => 18
  | _ => 4

end Sys2Proof.Machine
end

