-- ==== Sys2Proof/Tests/Slice0.lean ====
section
/-! SUPPORT. The model's own tests. Decoding: words written bit by bit from the encoding tables of
30_encoding.md. One step: the vectors of 95_test_vectors.md (their ids in the names), and the entry vectors
vE1 to vE16. Then a witness for the hypotheses of every statement that has some. -/

namespace Sys2Proof.Machine

/-! ## Helpers -/

/-- The machine about to run what stands at 0100H, everything else as after reset but V and K exact. -/
def at0100 : State :=
  { State.reset with pc := 0x0100, params := { Params.default with vkExact := true } }

/-- The state after one instruction, with the bytes given placed at PC; s where it is refused. -/
def ran (code : List Byte) (s : State) : State :=
  match runInstr (placeBytes s s.pc code) with
  | .next t => t
  | _ => s

/-- The state after one step; s where it is refused. -/
def stepped (s : State) : State :=
  match step s with
  | .next t => t
  | _ => s

/-- The step answers a next state. -/
def steps (s : State) : Bool :=
  match step s with
  | .next _ => true
  | _ => false

/-- The state with these bytes of memory. -/
def withBytes (cells : List (Word × Byte)) (s : State) : State :=
  cells.foldl (fun s c => s.poke c.1 c.2) s

/-- The environment does x at the coming sampling point. -/
def State.sampling (s : State) (x : Sample) : State := { s with env := { s.env with samples := [x] } }

/-- Each row's bytes are exactly its instruction. -/
def decodeEach (rows : List (List Byte × Instr)) : Bool :=
  rows.all fun r => decide (decode r.1 = .ok (r.2, []))

/-- A quiet sampling point with all pins low. -/
def quiet : Sample := Sample.quiet Pins.low

/-! ## WellFormed and the decoder's refusals -/

theorem test_wellFormed_refuses_ldax_hl : (Instr.ldax .hl).wellFormed = false := by decide
theorem test_wellFormed_refuses_ldax_sp : (Instr.ldax .sp).wellFormed = false := by decide
theorem test_wellFormed_refuses_stax_hl : (Instr.stax .hl).wellFormed = false := by decide
theorem test_wellFormed_refuses_stax_sp : (Instr.stax .sp).wellFormed = false := by decide
theorem test_wellFormed_refuses_push_sp : (Instr.push .sp).wellFormed = false := by decide
theorem test_wellFormed_refuses_pop_sp : (Instr.pop .sp).wellFormed = false := by decide
theorem test_wellFormed_admits_lxi_sp : (Instr.lxi .sp 0x2400).wellFormed = true := by decide

theorem test_decode_refuses_nothing : decode [] = .error .noFirstByte := by decide
theorem test_decode_refuses_short_mvi : decode [0x06] = .error (.operandMissing 0x06) := by decide
theorem test_decode_refuses_short_jmp : decode [0xC3, 0x00] = .error (.operandMissing 0xC3) := by
  decide

/-! ## Decoding: every constructor's word, from the spec's encodings -/

theorem test_decode_transfer :
    decodeEach [
      ([0b01000011], .movRR .b .e), ([0b01111110], .movRM .a),
      ([0b01110010], .movMR .d), ([0b00101110, 0b10100101], .mviR .l 0xA5),
      ([0b00110110, 0b10100101], .mviM 0xA5),
      ([0b00110001, 0b00110100, 0b00010010], .lxi .sp 0x1234),
      ([0b00111010, 0b00110100, 0b00010010], .lda 0x1234),
      ([0b00110010, 0b00110100, 0b00010010], .sta 0x1234),
      ([0b00101010, 0b00110100, 0b00010010], .lhld 0x1234),
      ([0b00100010, 0b00110100, 0b00010010], .shld 0x1234),
      ([0b00001010], .ldax .bc), ([0b00010010], .stax .de), ([0b11101011], .xchg),
      ([0b00101000, 0b10100101], .ldhi 0xA5), ([0b00111000, 0b10100101], .ldsi 0xA5),
      ([0b11101101], .lhlx), ([0b11011001], .shlx)] = true := by
  decide

theorem test_decode_control :
    decodeEach [
      ([0b01110110], .hlt), ([0b00000000], .nop), ([0b11111011], .ei),
      ([0b11110011], .di)] = true := by
  decide

theorem test_decode_stack :
    decodeEach [
      ([0b11000101], .push .bc), ([0b11110101], .pushPsw), ([0b11010001], .pop .de),
      ([0b11110001], .popPsw), ([0b11100011], .xthl), ([0b11111001], .sphl)] = true := by
  decide

theorem test_decode_jump_call :
    decodeEach [
      ([0b11000011, 0b00110100, 0b00010010], .jmp 0x1234),
      ([0b11000010, 0b00110100, 0b00010010], .jnz 0x1234),
      ([0b11001010, 0b00110100, 0b00010010], .jz 0x1234),
      ([0b11010010, 0b00110100, 0b00010010], .jnc 0x1234),
      ([0b11011010, 0b00110100, 0b00010010], .jc 0x1234),
      ([0b11100010, 0b00110100, 0b00010010], .jpo 0x1234),
      ([0b11101010, 0b00110100, 0b00010010], .jpe 0x1234),
      ([0b11110010, 0b00110100, 0b00010010], .jp 0x1234),
      ([0b11111010, 0b00110100, 0b00010010], .jm 0x1234), ([0b11101001], .pchl),
      ([0b11001101, 0b00110100, 0b00010010], .call 0x1234),
      ([0b11000100, 0b00110100, 0b00010010], .cnz 0x1234),
      ([0b11001100, 0b00110100, 0b00010010], .cz 0x1234),
      ([0b11010100, 0b00110100, 0b00010010], .cnc 0x1234),
      ([0b11011100, 0b00110100, 0b00010010], .cc 0x1234),
      ([0b11100100, 0b00110100, 0b00010010], .cpo 0x1234),
      ([0b11101100, 0b00110100, 0b00010010], .cpe 0x1234),
      ([0b11110100, 0b00110100, 0b00010010], .cp 0x1234),
      ([0b11111100, 0b00110100, 0b00010010], .cm 0x1234),
      ([0b11011101, 0b00110100, 0b00010010], .jnk 0x1234),
      ([0b11111101, 0b00110100, 0b00010010], .jk 0x1234)] = true := by
  decide

theorem test_decode_return_restart :
    decodeEach [
      ([0b11001001], .ret), ([0b11000000], .rnz), ([0b11001000], .rz),
      ([0b11010000], .rnc), ([0b11011000], .rc), ([0b11100000], .rpo),
      ([0b11101000], .rpe), ([0b11110000], .rp), ([0b11111000], .rm),
      ([0b11101111], .rst 5), ([0b11001011], .rstv)] = true := by
  decide

theorem test_decode_io :
    decodeEach [
      ([0b11011011, 0b10100101], .inPort 0xA5),
      ([0b11010011, 0b10100101], .outPort 0xA5)] = true := by
  decide

theorem test_decode_arith_logic :
    decodeEach [
      ([0b10000111], .addR .a), ([0b10000110], .addM),
      ([0b11000110, 0b10100101], .adi 0xA5), ([0b10001010], .adcR .d),
      ([0b10001110], .adcM), ([0b11001110, 0b10100101], .aci 0xA5),
      ([0b10010101], .subR .l), ([0b10010110], .subM),
      ([0b11010110, 0b10100101], .sui 0xA5), ([0b10011001], .sbbR .c),
      ([0b10011110], .sbbM), ([0b11011110, 0b10100101], .sbi 0xA5),
      ([0b10100100], .anaR .h), ([0b10100110], .anaM),
      ([0b11100110, 0b10100101], .ani 0xA5), ([0b10101000], .xraR .b),
      ([0b10101110], .xraM), ([0b11101110, 0b10100101], .xri 0xA5),
      ([0b10110011], .oraR .e), ([0b10110110], .oraM),
      ([0b11110110, 0b10100101], .ori 0xA5), ([0b10111111], .cmpR .a),
      ([0b10111110], .cmpM), ([0b11111110, 0b10100101], .cpi 0xA5),
      ([0b00001001], .dad .bc), ([0b00001000], .dsub)] = true := by
  decide

theorem test_decode_shift :
    decodeEach [
      ([0b00000111], .rlc), ([0b00001111], .rrc), ([0b00010111], .ral),
      ([0b00011111], .rar), ([0b00010000], .arhl), ([0b00011000], .rdel)] = true := by
  decide

theorem test_decode_incdec :
    decodeEach [
      ([0b00011100], .inrR .e), ([0b00110100], .inrM), ([0b00111101], .dcrR .a),
      ([0b00110101], .dcrM), ([0b00110011], .inx .sp), ([0b00001011], .dcx .bc)] = true := by
  decide

theorem test_decode_special :
    decodeEach [
      ([0b00100111], .daa), ([0b00101111], .cma), ([0b00110111], .stc),
      ([0b00111111], .cmc), ([0b00100000], .rim), ([0b00110000], .sim)] = true := by
  decide

/-! ## The table's words and the place of the next instruction -/

theorem test_decodeTableWord_lxi : decodeTableWord 24 0x123421 = some (.lxi .hl 0x1234) := by decide
theorem test_decodeTableWord_zero_operand : decodeTableWord 8 0xC3 = some (.jmp 0) := by decide

theorem test_withFetchWord_runs :
    (stepped (State.reset.withFetchWord 16 0x5A3E)).regs.a = 0x5A ∧
      (stepped (State.reset.withFetchWord 16 0x5A3E)).pc = 0x0002 := by decide

/-! ## One instruction: the vectors of 95_test_vectors.md -/

/-- vT1 (R120): `MOV B,A`. -/
theorem test_mov_vT1 :
    let t := ran [0x47]
      { at0100 with regs := { at0100.regs with a := 0x5A } }
    t.regs.b = 0x5A ∧ t.pc = 0x0101 ∧ t.flags = at0100.flags := by decide

/-- vT2 (R121): `MOV A,M`. -/
theorem test_mov_vT2 :
    let t := ran [0x7E]
      (withBytes [(0x2000, 0xC3)]
        { at0100 with regs := { at0100.regs with h := 0x20, l := 0x00 } })
    t.regs.a = 0xC3 ∧ t.pc = 0x0101 ∧ t.flags = at0100.flags := by decide

/-- vT4 (R121): `MOV H,M`. -/
theorem test_mov_vT4 :
    let t := ran [0x66]
      (withBytes [(0x2000, 0x31)]
        { at0100 with regs := { at0100.regs with h := 0x20, l := 0x00 } })
    t.regs.h = 0x31 ∧ t.pc = 0x0101 ∧ t.flags = at0100.flags := by decide

/-- vT3 (R122): `MOV M,E`. -/
theorem test_mov_vT3 :
    let t := ran [0x73]
      { at0100 with regs := { at0100.regs with h := 0xFF, l := 0xFF, e := 0x77 } }
    t.pc = 0x0101 ∧ t.peek 0xFFFF = 0x77 ∧ t.flags = at0100.flags := by decide

/-- vT5 (R123): `MVI C,FFH`. -/
theorem test_mvi_vT5 :
    let t := ran [0x0E, 0xFF]
      at0100
    t.regs.c = 0xFF ∧ t.pc = 0x0102 ∧ t.flags = at0100.flags := by decide

/-- vT6 (R124): `MVI M,12H`. -/
theorem test_mvi_vT6 :
    let t := ran [0x36, 0x12]
      { at0100 with regs := { at0100.regs with h := 0x20, l := 0x01 } }
    t.pc = 0x0102 ∧ t.peek 0x2001 = 0x12 ∧ t.flags = at0100.flags := by decide

/-- vT7 (R125): `LXI SP,2400H`. -/
theorem test_lxi_vT7 :
    let t := ran [0x31, 0x00, 0x24]
      at0100
    t.sp = 0x2400 ∧ t.pc = 0x0103 ∧ t.flags = at0100.flags := by decide

/-- vT8 (R125): `LXI D,ABCDH`. -/
theorem test_lxi_vT8 :
    let t := ran [0x11, 0xCD, 0xAB]
      at0100
    t.regs.d = 0xAB ∧ t.regs.e = 0xCD ∧ t.pc = 0x0103 ∧ t.flags = at0100.flags := by decide

/-- vT9 (R126): `LDA FFFFH`. -/
theorem test_lda_vT9 :
    let t := ran [0x3A, 0xFF, 0xFF]
      (withBytes [(0xFFFF, 0x9C)] at0100)
    t.regs.a = 0x9C ∧ t.pc = 0x0103 ∧ t.flags = at0100.flags := by decide

/-- vT10 (R127): `STA 2000H`. -/
theorem test_sta_vT10 :
    let t := ran [0x32, 0x00, 0x20]
      { at0100 with regs := { at0100.regs with a := 0xE1 } }
    t.pc = 0x0103 ∧ t.peek 0x2000 = 0xE1 ∧ t.flags = at0100.flags := by decide

/-- vT11 (R128): `LHLD FFFFH`. -/
theorem test_lhld_vT11 :
    let t := ran [0x2A, 0xFF, 0xFF]
      (withBytes [(0x0000, 0x12), (0xFFFF, 0x34)] at0100)
    t.regs.h = 0x12 ∧ t.regs.l = 0x34 ∧ t.pc = 0x0103 ∧ t.flags = at0100.flags := by decide

/-- vT12 (R129): `SHLD 2000H`. -/
theorem test_shld_vT12 :
    let t := ran [0x22, 0x00, 0x20]
      { at0100 with regs := { at0100.regs with h := 0xBE, l := 0xEF } }
    t.pc = 0x0103 ∧ t.peek 0x2000 = 0xEF ∧ t.peek 0x2001 = 0xBE ∧
      t.flags = at0100.flags := by decide

/-- vT13 (R130): `LDAX B`. -/
theorem test_ldax_vT13 :
    let t := ran [0x0A]
      (withBytes [(0x2005, 0x42)]
        { at0100 with regs := { at0100.regs with b := 0x20, c := 0x05 } })
    t.regs.a = 0x42 ∧ t.pc = 0x0101 ∧ t.flags = at0100.flags := by decide

/-- vT14 (R131): `STAX D`. -/
theorem test_stax_vT14 :
    let t := ran [0x12]
      { at0100 with regs := { at0100.regs with d := 0x20, e := 0x06, a := 0x24 } }
    t.pc = 0x0101 ∧ t.peek 0x2006 = 0x24 ∧ t.flags = at0100.flags := by decide

/-- vT15 (R132): `XCHG`. -/
theorem test_xchg_vT15 :
    let t := ran [0xEB]
      { at0100 with
        regs := { at0100.regs with d := 0x11, e := 0x22, h := 0x33, l := 0x44 } }
    t.regs.d = 0x33 ∧ t.regs.e = 0x44 ∧ t.regs.h = 0x11 ∧ t.regs.l = 0x22 ∧
      t.pc = 0x0101 ∧ t.flags = at0100.flags := by decide

/-- vT16 (R133): `LDHI 10H`. -/
theorem test_ldhi_vT16 :
    let t := ran [0x28, 0x10]
      { at0100 with regs := { at0100.regs with h := 0xFF, l := 0xF8 } }
    t.regs.d = 0x00 ∧ t.regs.e = 0x08 ∧ t.pc = 0x0102 ∧ t.flags = at0100.flags := by decide

/-- vT17 (R134): `LDSI FFH`. -/
theorem test_ldsi_vT17 :
    let t := ran [0x38, 0xFF]
      { at0100 with sp := 0xFF02 }
    t.regs.d = 0x00 ∧ t.regs.e = 0x01 ∧ t.pc = 0x0102 ∧ t.flags = at0100.flags := by decide

/-- vT18 (R135): `LHLX`. -/
theorem test_lhlx_vT18 :
    let t := ran [0xED]
      (withBytes [(0x2000, 0x78), (0x2001, 0x56)]
        { at0100 with regs := { at0100.regs with d := 0x20, e := 0x00 } })
    t.regs.h = 0x56 ∧ t.regs.l = 0x78 ∧ t.pc = 0x0101 ∧ t.flags = at0100.flags := by decide

/-- vT19 (R136): `SHLX`. -/
theorem test_shlx_vT19 :
    let t := ran [0xD9]
      { at0100 with
        regs := { at0100.regs with d := 0xFF, e := 0xFF, h := 0xA1, l := 0xB2 } }
    t.pc = 0x0101 ∧ t.peek 0xFFFF = 0xB2 ∧ t.peek 0x0000 = 0xA1 ∧
      t.flags = at0100.flags := by decide

/-- vS1 (R142): `PUSH B`. -/
theorem test_push_vS1 :
    let t := ran [0xC5]
      { at0100 with regs := { at0100.regs with b := 0x12, c := 0x34 }, sp := 0x2400 }
    t.sp = 0x23FE ∧ t.pc = 0x0101 ∧ t.peek 0x23FF = 0x12 ∧ t.peek 0x23FE = 0x34 ∧
      t.flags = at0100.flags := by decide

/-- vS2 (R142): `PUSH H`. -/
theorem test_push_vS2 :
    let t := ran [0xE5]
      { at0100 with regs := { at0100.regs with h := 0xA1, l := 0xB2 }, sp := 0x0001 }
    t.sp = 0xFFFF ∧ t.pc = 0x0101 ∧ t.peek 0x0000 = 0xA1 ∧ t.peek 0xFFFF = 0xB2 ∧
      t.flags = at0100.flags := by decide

/-- vS3 (R143): `PUSH PSW`. -/
theorem test_push_vS3 :
    let t := ran [0xF5]
      { at0100 with
        regs := { at0100.regs with a := 0x9F }
        flags := ⟨true, false, true, true, true, true, true⟩
        sp := 0x2400 }
    t.sp = 0x23FE ∧ t.pc = 0x0101 ∧ t.peek 0x23FF = 0x9F ∧ t.peek 0x23FE = 0xB7 ∧
      t.flags = ⟨true, false, true, true, true, true, true⟩ := by decide

/-- vS4 (R143): `PUSH PSW`. -/
theorem test_push_vS4 :
    let t := ran [0xF5]
      { at0100 with
        regs := { at0100.regs with a := 0x00 }
        flags := ⟨false, true, false, false, true, false, false⟩
        sp := 0x2400 }
    t.sp = 0x23FE ∧ t.pc = 0x0101 ∧ t.peek 0x23FF = 0x00 ∧ t.peek 0x23FE = 0x44 ∧
      t.flags = ⟨false, true, false, false, true, false, false⟩ := by decide

/-- vS5 (R144): `POP D`. -/
theorem test_pop_vS5 :
    let t := ran [0xD1]
      (withBytes [(0x23FE, 0xCD), (0x23FF, 0xAB)] { at0100 with sp := 0x23FE })
    t.regs.d = 0xAB ∧ t.regs.e = 0xCD ∧ t.sp = 0x2400 ∧ t.pc = 0x0101 ∧
      t.flags = at0100.flags := by decide

/-- vS6 (R145): `POP PSW`. -/
theorem test_pop_vS6 :
    let t := ran [0xF1]
      (withBytes [(0x23FE, 0xFF), (0x23FF, 0x12)] { at0100 with sp := 0x23FE })
    t.regs.a = 0x12 ∧ t.sp = 0x2400 ∧ t.pc = 0x0101 ∧
      t.flags = ⟨true, true, true, true, true, true, true⟩ := by decide

/-- vS7 (R145): `POP PSW`. -/
theorem test_pop_vS7 :
    let t := ran [0xF1]
      (withBytes [(0x0000, 0x77), (0xFFFF, 0x08)]
        { at0100 with
        flags := ⟨true, true, true, true, true, true, true⟩
        sp := 0xFFFF })
    t.regs.a = 0x77 ∧ t.sp = 0x0001 ∧ t.pc = 0x0101 ∧
      t.flags = ⟨false, false, false, false, false, false, false⟩ := by decide

/-- vS8 (R146): `XTHL`. -/
theorem test_xthl_vS8 :
    let t := ran [0xE3]
      (withBytes [(0x23FE, 0x44), (0x23FF, 0x33)]
        { at0100 with regs := { at0100.regs with h := 0x11, l := 0x22 }, sp := 0x23FE })
    t.regs.h = 0x33 ∧ t.regs.l = 0x44 ∧ t.pc = 0x0101 ∧ t.peek 0x23FF = 0x11 ∧
      t.peek 0x23FE = 0x22 ∧ t.flags = at0100.flags := by decide

/-- vS9 (R147): `SPHL`. -/
theorem test_sphl_vS9 :
    let t := ran [0xF9]
      { at0100 with regs := { at0100.regs with h := 0x80, l := 0x00 }, sp := 0x1111 }
    t.sp = 0x8000 ∧ t.pc = 0x0101 ∧ t.flags = at0100.flags := by decide

/-- vB1 (R151): `JMP 2050H`. -/
theorem test_jmp_vB1 :
    let t := ran [0xC3, 0x50, 0x20]
      at0100
    t.pc = 0x2050 ∧ t.flags = at0100.flags := by decide

/-- vB2 (R152): `JNZ 2050H`. -/
theorem test_jnz_vB2 :
    let t := ran [0xC2, 0x50, 0x20]
      { at0100 with flags := { at0100.flags with z := false } }
    t.pc = 0x2050 ∧ t.flags = { at0100.flags with z := false } := by decide

/-- vB3 (R152): `JNZ 2050H`. -/
theorem test_jnz_vB3 :
    let t := ran [0xC2, 0x50, 0x20]
      { at0100 with flags := { at0100.flags with z := true } }
    t.pc = 0x0103 ∧ t.flags = { at0100.flags with z := true } := by decide

/-- vB4 (R153): `JZ 2050H`. -/
theorem test_jz_vB4 :
    let t := ran [0xCA, 0x50, 0x20]
      { at0100 with flags := { at0100.flags with z := true } }
    t.pc = 0x2050 ∧ t.flags = { at0100.flags with z := true } := by decide

/-- vB5 (R154): `JNC 2050H`. -/
theorem test_jnc_vB5 :
    let t := ran [0xD2, 0x50, 0x20]
      { at0100 with flags := { at0100.flags with cy := true } }
    t.pc = 0x0103 ∧ t.flags = { at0100.flags with cy := true } := by decide

/-- vB6 (R155): `JC 2050H`. -/
theorem test_jc_vB6 :
    let t := ran [0xDA, 0x50, 0x20]
      { at0100 with flags := { at0100.flags with cy := true } }
    t.pc = 0x2050 ∧ t.flags = { at0100.flags with cy := true } := by decide

/-- vB7 (R156): `JPO 2050H`. -/
theorem test_jpo_vB7 :
    let t := ran [0xE2, 0x50, 0x20]
      { at0100 with flags := { at0100.flags with p := false } }
    t.pc = 0x2050 ∧ t.flags = { at0100.flags with p := false } := by decide

/-- vB8 (R157): `JPE 2050H`. -/
theorem test_jpe_vB8 :
    let t := ran [0xEA, 0x50, 0x20]
      { at0100 with flags := { at0100.flags with p := false } }
    t.pc = 0x0103 ∧ t.flags = { at0100.flags with p := false } := by decide

/-- vB9 (R158): `JP 2050H`. -/
theorem test_jp_vB9 :
    let t := ran [0xF2, 0x50, 0x20]
      { at0100 with flags := { at0100.flags with s := true } }
    t.pc = 0x0103 ∧ t.flags = { at0100.flags with s := true } := by decide

/-- vB10 (R159): `JM 2050H`. -/
theorem test_jm_vB10 :
    let t := ran [0xFA, 0x50, 0x20]
      { at0100 with flags := { at0100.flags with s := true } }
    t.pc = 0x2050 ∧ t.flags = { at0100.flags with s := true } := by decide

/-- vB11 (R160): `PCHL`. -/
theorem test_pchl_vB11 :
    let t := ran [0xE9]
      { at0100 with regs := { at0100.regs with h := 0xFF, l := 0xFE } }
    t.pc = 0xFFFE ∧ t.flags = at0100.flags := by decide

/-- vB12 (R161): `CALL 3000H`. -/
theorem test_call_vB12 :
    let t := ran [0xCD, 0x00, 0x30]
      { at0100 with sp := 0x2400 }
    t.sp = 0x23FE ∧ t.pc = 0x3000 ∧ t.peek 0x23FF = 0x01 ∧ t.peek 0x23FE = 0x03 ∧
      t.flags = at0100.flags := by decide

/-- vB13 (R161): `CALL 3000H`. -/
theorem test_call_vB13 :
    let t := ran [0xCD, 0x00, 0x30]
      { at0100 with sp := 0x0000 }
    t.sp = 0xFFFE ∧ t.pc = 0x3000 ∧ t.peek 0xFFFF = 0x01 ∧ t.peek 0xFFFE = 0x03 ∧
      t.flags = at0100.flags := by decide

/-- vB14 (R162): `CNZ 3000H`. -/
theorem test_cnz_vB14 :
    let t := ran [0xC4, 0x00, 0x30]
      { at0100 with flags := { at0100.flags with z := true }, sp := 0x2400 }
    t.pc = 0x0103 ∧ t.flags = { at0100.flags with z := true } := by decide

/-- vB15 (R163): `CZ 3000H`. -/
theorem test_cz_vB15 :
    let t := ran [0xCC, 0x00, 0x30]
      { at0100 with flags := { at0100.flags with z := true }, sp := 0x2400 }
    t.sp = 0x23FE ∧ t.pc = 0x3000 ∧ t.peek 0x23FF = 0x01 ∧ t.peek 0x23FE = 0x03 ∧
      t.flags = { at0100.flags with z := true } := by decide

/-- vB16 (R164): `CNC 3000H`. -/
theorem test_cnc_vB16 :
    let t := ran [0xD4, 0x00, 0x30]
      { at0100 with flags := { at0100.flags with cy := false }, sp := 0x2400 }
    t.sp = 0x23FE ∧ t.pc = 0x3000 ∧ t.peek 0x23FF = 0x01 ∧ t.peek 0x23FE = 0x03 ∧
      t.flags = { at0100.flags with cy := false } := by decide

/-- vB17 (R165): `CC 3000H`. -/
theorem test_cc_vB17 :
    let t := ran [0xDC, 0x00, 0x30]
      { at0100 with flags := { at0100.flags with cy := false }, sp := 0x2400 }
    t.pc = 0x0103 ∧ t.flags = { at0100.flags with cy := false } := by decide

/-- vB18 (R166): `CPO 3000H`. -/
theorem test_cpo_vB18 :
    let t := ran [0xE4, 0x00, 0x30]
      { at0100 with flags := { at0100.flags with p := true }, sp := 0x2400 }
    t.pc = 0x0103 ∧ t.flags = { at0100.flags with p := true } := by decide

/-- vB19 (R167): `CPE 3000H`. -/
theorem test_cpe_vB19 :
    let t := ran [0xEC, 0x00, 0x30]
      { at0100 with flags := { at0100.flags with p := true }, sp := 0x2400 }
    t.sp = 0x23FE ∧ t.pc = 0x3000 ∧ t.peek 0x23FF = 0x01 ∧ t.peek 0x23FE = 0x03 ∧
      t.flags = { at0100.flags with p := true } := by decide

/-- vB20 (R168): `CP 3000H`. -/
theorem test_cp_vB20 :
    let t := ran [0xF4, 0x00, 0x30]
      { at0100 with flags := { at0100.flags with s := false }, sp := 0x2400 }
    t.sp = 0x23FE ∧ t.pc = 0x3000 ∧ t.peek 0x23FF = 0x01 ∧ t.peek 0x23FE = 0x03 ∧
      t.flags = { at0100.flags with s := false } := by decide

/-- vB21 (R169): `CM 3000H`. -/
theorem test_cm_vB21 :
    let t := ran [0xFC, 0x00, 0x30]
      { at0100 with flags := { at0100.flags with s := false }, sp := 0x2400 }
    t.pc = 0x0103 ∧ t.flags = { at0100.flags with s := false } := by decide

/-- vB22 (R171): `JNK 2050H`. -/
theorem test_jnk_vB22 :
    let t := ran [0xDD, 0x50, 0x20]
      { at0100 with flags := { at0100.flags with k := false } }
    t.pc = 0x2050 ∧ t.flags = { at0100.flags with k := false } := by decide

/-- vB23 (R171): `JNK 2050H`. -/
theorem test_jnk_vB23 :
    let t := ran [0xDD, 0x50, 0x20]
      { at0100 with flags := { at0100.flags with k := true } }
    t.pc = 0x0103 ∧ t.flags = { at0100.flags with k := true } := by decide

/-- vB24 (R172): `JK 2050H`. -/
theorem test_jk_vB24 :
    let t := ran [0xFD, 0x50, 0x20]
      { at0100 with flags := { at0100.flags with k := true } }
    t.pc = 0x2050 ∧ t.flags = { at0100.flags with k := true } := by decide

/-- vR1 (R180): `RET`. -/
theorem test_ret_vR1 :
    let t := ran [0xC9]
      (withBytes [(0x23FE, 0x03), (0x23FF, 0x20)] { at0100 with sp := 0x23FE })
    t.sp = 0x2400 ∧ t.pc = 0x2003 ∧ t.flags = at0100.flags := by decide

/-- vR2 (R180): `RET`. -/
theorem test_ret_vR2 :
    let t := ran [0xC9]
      (withBytes [(0x0000, 0x12), (0xFFFF, 0x34)] { at0100 with sp := 0xFFFF })
    t.sp = 0x0001 ∧ t.pc = 0x1234 ∧ t.flags = at0100.flags := by decide

/-- vR3 (R181): `RNZ`. -/
theorem test_rnz_vR3 :
    let t := ran [0xC0]
      (withBytes [(0x23FE, 0x03), (0x23FF, 0x20)]
        { at0100 with flags := { at0100.flags with z := true }, sp := 0x23FE })
    t.pc = 0x0101 ∧ t.flags = { at0100.flags with z := true } := by decide

/-- vR4 (R182): `RZ`. -/
theorem test_rz_vR4 :
    let t := ran [0xC8]
      (withBytes [(0x23FE, 0x03), (0x23FF, 0x20)]
        { at0100 with flags := { at0100.flags with z := true }, sp := 0x23FE })
    t.sp = 0x2400 ∧ t.pc = 0x2003 ∧ t.flags = { at0100.flags with z := true } := by decide

/-- vR5 (R183): `RNC`. -/
theorem test_rnc_vR5 :
    let t := ran [0xD0]
      (withBytes [(0x23FE, 0x03), (0x23FF, 0x20)]
        { at0100 with flags := { at0100.flags with cy := false }, sp := 0x23FE })
    t.sp = 0x2400 ∧ t.pc = 0x2003 ∧ t.flags = { at0100.flags with cy := false } := by decide

/-- vR6 (R184): `RC`. -/
theorem test_rc_vR6 :
    let t := ran [0xD8]
      (withBytes [(0x23FE, 0x03), (0x23FF, 0x20)]
        { at0100 with flags := { at0100.flags with cy := false }, sp := 0x23FE })
    t.pc = 0x0101 ∧ t.flags = { at0100.flags with cy := false } := by decide

/-- vR7 (R185): `RPO`. -/
theorem test_rpo_vR7 :
    let t := ran [0xE0]
      (withBytes [(0x23FE, 0x03), (0x23FF, 0x20)]
        { at0100 with flags := { at0100.flags with p := true }, sp := 0x23FE })
    t.pc = 0x0101 ∧ t.flags = { at0100.flags with p := true } := by decide

/-- vR8 (R186): `RPE`. -/
theorem test_rpe_vR8 :
    let t := ran [0xE8]
      (withBytes [(0x23FE, 0x03), (0x23FF, 0x20)]
        { at0100 with flags := { at0100.flags with p := true }, sp := 0x23FE })
    t.sp = 0x2400 ∧ t.pc = 0x2003 ∧ t.flags = { at0100.flags with p := true } := by decide

/-- vR9 (R187): `RP`. -/
theorem test_rp_vR9 :
    let t := ran [0xF0]
      (withBytes [(0x23FE, 0x03), (0x23FF, 0x20)]
        { at0100 with flags := { at0100.flags with s := true }, sp := 0x23FE })
    t.pc = 0x0101 ∧ t.flags = { at0100.flags with s := true } := by decide

/-- vR10 (R188): `RM`. -/
theorem test_rm_vR10 :
    let t := ran [0xF8]
      (withBytes [(0x23FE, 0x03), (0x23FF, 0x20)]
        { at0100 with flags := { at0100.flags with s := true }, sp := 0x23FE })
    t.sp = 0x2400 ∧ t.pc = 0x2003 ∧ t.flags = { at0100.flags with s := true } := by decide

/-- vR12 (R190): `RST 5`. -/
theorem test_rst_vR12 :
    let t := ran [0xEF]
      { at0100 with sp := 0x2400 }
    t.sp = 0x23FE ∧ t.pc = 0x0028 ∧ t.peek 0x23FF = 0x01 ∧ t.peek 0x23FE = 0x01 ∧
      t.flags = at0100.flags := by decide

/-- vR13 (R190): `RST 7`. -/
theorem test_rst_vR13 :
    let t := ran [0xFF]
      { at0100 with sp := 0x2400 }
    t.sp = 0x23FE ∧ t.pc = 0x0038 ∧ t.peek 0x23FF = 0x01 ∧ t.peek 0x23FE = 0x01 ∧
      t.flags = at0100.flags := by decide

/-- vR14 (R191): `RSTV`. -/
theorem test_rstv_vR14 :
    let t := ran [0xCB]
      { at0100 with flags := { at0100.flags with v := true }, sp := 0x2400 }
    t.sp = 0x23FE ∧ t.pc = 0x0040 ∧ t.peek 0x23FF = 0x01 ∧ t.peek 0x23FE = 0x01 ∧
      t.flags = { at0100.flags with v := true } := by decide

/-- vR15 (R191): `RSTV`. -/
theorem test_rstv_vR15 :
    let t := ran [0xCB]
      { at0100 with flags := { at0100.flags with v := false }, sp := 0x2400 }
    t.pc = 0x0101 ∧ t.flags = { at0100.flags with v := false } := by decide

/-- vI1 (R200): `IN 10H`. -/
theorem test_in_vI1 :
    let t := ran [0xDB, 0x10]
      { at0100 with
        regs := { at0100.regs with a := 0x00 }
        env := { at0100.env with busIn := [0xA5] } }
    t.regs.a = 0xA5 ∧ t.pc = 0x0102 ∧ t.env.trace = [.ioRead 0x10 0xA5] ∧
      t.flags = at0100.flags := by decide

/-- vI2 (R200): `IN FFH`. -/
theorem test_in_vI2 :
    let t := ran [0xDB, 0xFF]
      { at0100 with
        regs := { at0100.regs with a := 0x11 }
        env := { at0100.env with busIn := [0x00] } }
    t.regs.a = 0x00 ∧ t.pc = 0x0102 ∧ t.env.trace = [.ioRead 0xFF 0x00] ∧
      t.flags = at0100.flags := by decide

/-- vI3 (R201): `OUT FFH`. -/
theorem test_out_vI3 :
    let t := ran [0xD3, 0xFF]
      { at0100 with regs := { at0100.regs with a := 0x5A } }
    t.pc = 0x0102 ∧ t.env.trace = [.ioWrite 0xFF 0x5A] ∧ t.flags = at0100.flags := by decide

/-- vI4 (R201): `OUT 00H`. -/
theorem test_out_vI4 :
    let t := ran [0xD3, 0x00]
      { at0100 with regs := { at0100.regs with a := 0x00 } }
    t.pc = 0x0102 ∧ t.env.trace = [.ioWrite 0x00 0x00] ∧ t.flags = at0100.flags := by decide

/-- vA2 (R213): `ADD A`. -/
theorem test_add_vA2 :
    let t := ran [0x87]
      { at0100 with regs := { at0100.regs with a := 0x80 } }
    t.regs.a = 0x00 ∧ t.pc = 0x0101 ∧
      t.flags = ⟨false, true, true, false, true, true, true⟩ := by decide

/-- vA3 (R213): `ADD C`. -/
theorem test_add_vA3 :
    let t := ran [0x81]
      { at0100 with regs := { at0100.regs with a := 0x7F, c := 0x01 } }
    t.regs.a = 0x80 ∧ t.pc = 0x0101 ∧
      t.flags = ⟨true, false, false, true, false, true, false⟩ := by decide

/-- vA4 (R214): `ADD M`. -/
theorem test_add_vA4 :
    let t := ran [0x86]
      (withBytes [(0x2000, 0x01)]
        { at0100 with regs := { at0100.regs with a := 0xFF, h := 0x20, l := 0x00 } })
    t.regs.a = 0x00 ∧ t.pc = 0x0101 ∧
      t.flags = ⟨false, true, false, true, true, false, true⟩ := by decide

/-- vA5 (R215): `ADI 42H`. -/
theorem test_adi_vA5 :
    let t := ran [0xC6, 0x42]
      { at0100 with regs := { at0100.regs with a := 0x14 } }
    t.regs.a = 0x56 ∧ t.pc = 0x0102 ∧
      t.flags = ⟨false, false, false, false, true, false, false⟩ := by decide

/-- vA6 (R216): `ADC C`. -/
theorem test_adc_vA6 :
    let t := ran [0x89]
      { at0100 with
        regs := { at0100.regs with a := 0x42, c := 0x3D }
        flags := { at0100.flags with cy := true } }
    t.regs.a = 0x80 ∧ t.pc = 0x0101 ∧
      t.flags = ⟨true, false, false, true, false, true, false⟩ := by decide

/-- vA7 (R217): `ADC M`. -/
theorem test_adc_vA7 :
    let t := ran [0x8E]
      (withBytes [(0x2000, 0xFF)]
        { at0100 with
        regs := { at0100.regs with a := 0xFF, h := 0x20, l := 0x00 }
        flags := { at0100.flags with cy := true } })
    t.regs.a = 0xFF ∧ t.pc = 0x0101 ∧
      t.flags = ⟨true, false, true, true, true, false, true⟩ := by decide

/-- vA8 (R218): `ACI 00H`. -/
theorem test_aci_vA8 :
    let t := ran [0xCE, 0x00]
      { at0100 with
        regs := { at0100.regs with a := 0xFF }
        flags := { at0100.flags with cy := true } }
    t.regs.a = 0x00 ∧ t.pc = 0x0102 ∧
      t.flags = ⟨false, true, false, true, true, false, true⟩ := by decide

/-- vA10 (R219): `SUB B`. -/
theorem test_sub_vA10 :
    let t := ran [0x90]
      { at0100 with regs := { at0100.regs with a := 0x00, b := 0x01 } }
    t.regs.a = 0xFF ∧ t.pc = 0x0101 ∧
      t.flags = ⟨true, false, true, false, true, false, true⟩ := by decide

/-- vA11 (R219): `SUB D`. -/
theorem test_sub_vA11 :
    let t := ran [0x92]
      { at0100 with regs := { at0100.regs with a := 0x80, d := 0x01 } }
    t.regs.a = 0x7F ∧ t.pc = 0x0101 ∧
      t.flags = ⟨false, false, true, false, false, true, false⟩ := by decide

/-- vA12 (R220): `SUB M`. -/
theorem test_sub_vA12 :
    let t := ran [0x96]
      (withBytes [(0x2000, 0x0F)]
        { at0100 with regs := { at0100.regs with a := 0x50, h := 0x20, l := 0x00 } })
    t.regs.a = 0x41 ∧ t.pc = 0x0101 ∧
      t.flags = ⟨false, false, false, false, true, false, false⟩ := by decide

/-- vA13 (R221): `SUI 01H`. -/
theorem test_sui_vA13 :
    let t := ran [0xD6, 0x01]
      { at0100 with regs := { at0100.regs with a := 0x00 } }
    t.regs.a = 0xFF ∧ t.pc = 0x0102 ∧
      t.flags = ⟨true, false, true, false, true, false, true⟩ := by decide

/-- vA14 (R222): `SBB L`. -/
theorem test_sbb_vA14 :
    let t := ran [0x9D]
      { at0100 with
        regs := { at0100.regs with a := 0x04, l := 0x02 }
        flags := { at0100.flags with cy := true } }
    t.regs.a = 0x01 ∧ t.pc = 0x0101 ∧
      t.flags = ⟨false, false, false, true, false, false, false⟩ := by decide

/-- vA15 (R223): `SBB M`. -/
theorem test_sbb_vA15 :
    let t := ran [0x9E]
      (withBytes [(0x2000, 0xFF)]
        { at0100 with
        regs := { at0100.regs with a := 0x00, h := 0x20, l := 0x00 }
        flags := { at0100.flags with cy := true } })
    t.regs.a = 0x00 ∧ t.pc = 0x0101 ∧
      t.flags = ⟨false, true, false, false, true, false, true⟩ := by decide

/-- vA16 (R224): `SBI 00H`. -/
theorem test_sbi_vA16 :
    let t := ran [0xDE, 0x00]
      { at0100 with
        regs := { at0100.regs with a := 0x00 }
        flags := { at0100.flags with cy := true } }
    t.regs.a = 0xFF ∧ t.pc = 0x0102 ∧
      t.flags = ⟨true, false, true, false, true, false, true⟩ := by decide

/-- vA17 (R225): `ANA C`. -/
theorem test_ana_vA17 :
    let t := ran [0xA1]
      { at0100 with
        regs := { at0100.regs with a := 0xFC, c := 0x0F }
        flags := { at0100.flags with cy := true } }
    t.regs.a = 0x0C ∧ t.pc = 0x0101 ∧
      t.flags = ⟨false, false, false, true, true, false, false⟩ := by decide

/-- vA18 (R226): `ANA M`. -/
theorem test_ana_vA18 :
    let t := ran [0xA6]
      (withBytes [(0x2000, 0x0F)]
        { at0100 with
        regs := { at0100.regs with a := 0xF0, h := 0x20, l := 0x00 }
        flags := { at0100.flags with cy := true } })
    t.regs.a = 0x00 ∧ t.pc = 0x0101 ∧
      t.flags = ⟨false, true, false, true, true, false, false⟩ := by decide

/-- vA19 (R227): `ANI 80H`. -/
theorem test_ani_vA19 :
    let t := ran [0xE6, 0x80]
      { at0100 with
        regs := { at0100.regs with a := 0xFF }
        flags := { at0100.flags with cy := true } }
    t.regs.a = 0x80 ∧ t.pc = 0x0102 ∧
      t.flags = ⟨true, false, true, true, false, false, false⟩ := by decide

/-- vA20 (R228): `XRA A`. -/
theorem test_xra_vA20 :
    let t := ran [0xAF]
      { at0100 with
        regs := { at0100.regs with a := 0x5C }
        flags := { at0100.flags with cy := true, ac := true } }
    t.regs.a = 0x00 ∧ t.pc = 0x0101 ∧
      t.flags = ⟨false, true, false, false, true, false, false⟩ := by decide

/-- vA21 (R229): `XRA M`. -/
theorem test_xra_vA21 :
    let t := ran [0xAE]
      (withBytes [(0x2000, 0x0F)]
        { at0100 with
        regs := { at0100.regs with a := 0xFF, h := 0x20, l := 0x00 }
        flags := { at0100.flags with cy := true } })
    t.regs.a = 0xF0 ∧ t.pc = 0x0101 ∧
      t.flags = ⟨true, false, true, false, true, false, false⟩ := by decide

/-- vA22 (R230): `XRI 81H`. -/
theorem test_xri_vA22 :
    let t := ran [0xEE, 0x81]
      { at0100 with
        regs := { at0100.regs with a := 0x3B }
        flags := { at0100.flags with cy := true } }
    t.regs.a = 0xBA ∧ t.pc = 0x0102 ∧
      t.flags = ⟨true, false, true, false, false, false, false⟩ := by decide

/-- vA23 (R231): `ORA C`. -/
theorem test_ora_vA23 :
    let t := ran [0xB1]
      { at0100 with
        regs := { at0100.regs with a := 0x33, c := 0x0F }
        flags := { at0100.flags with cy := true, ac := true } }
    t.regs.a = 0x3F ∧ t.pc = 0x0101 ∧
      t.flags = ⟨false, false, false, false, true, false, false⟩ := by decide

/-- vA24 (R232): `ORA M`. -/
theorem test_ora_vA24 :
    let t := ran [0xB6]
      (withBytes [(0x2000, 0x00)]
        { at0100 with
        regs := { at0100.regs with a := 0x00, h := 0x20, l := 0x00 }
        flags := { at0100.flags with cy := true } })
    t.regs.a = 0x00 ∧ t.pc = 0x0101 ∧
      t.flags = ⟨false, true, false, false, true, false, false⟩ := by decide

/-- vA25 (R233): `ORI 0FH`. -/
theorem test_ori_vA25 :
    let t := ran [0xF6, 0x0F]
      { at0100 with
        regs := { at0100.regs with a := 0xB5 }
        flags := { at0100.flags with cy := true } }
    t.regs.a = 0xBF ∧ t.pc = 0x0102 ∧
      t.flags = ⟨true, false, true, false, false, false, false⟩ := by decide

/-- vA26 (R234): `CMP E`. -/
theorem test_cmp_vA26 :
    let t := ran [0xBB]
      { at0100 with regs := { at0100.regs with a := 0x0A, e := 0x05 } }
    t.pc = 0x0101 ∧ t.flags = ⟨false, false, false, true, true, false, false⟩ := by decide

/-- vA27 (R234): `CMP E`. -/
theorem test_cmp_vA27 :
    let t := ran [0xBB]
      { at0100 with regs := { at0100.regs with a := 0x02, e := 0x05 } }
    t.pc = 0x0101 ∧ t.flags = ⟨true, false, true, false, false, false, true⟩ := by decide

/-- vA28 (R235): `CMP M`. -/
theorem test_cmp_vA28 :
    let t := ran [0xBE]
      (withBytes [(0x2000, 0x80)]
        { at0100 with regs := { at0100.regs with a := 0x80, h := 0x20, l := 0x00 } })
    t.pc = 0x0101 ∧ t.flags = ⟨false, true, false, true, true, false, false⟩ := by decide

/-- vA29 (R236): `CPI 40H`. -/
theorem test_cpi_vA29 :
    let t := ran [0xFE, 0x40]
      { at0100 with regs := { at0100.regs with a := 0xE5 } }
    t.pc = 0x0102 ∧ t.flags = ⟨true, false, true, true, true, false, false⟩ := by decide

/-- vA30 (R236): `CPI 7FH`. -/
theorem test_cpi_vA30 :
    let t := ran [0xFE, 0x7F]
      { at0100 with regs := { at0100.regs with a := 0x80 } }
    t.pc = 0x0102 ∧ t.flags = ⟨false, false, true, false, false, true, false⟩ := by decide

/-- vA31 (R237): `DAD B`. -/
theorem test_dad_vA31 :
    let t := ran [0x09]
      { at0100 with
        regs := { at0100.regs with h := 0xA1, l := 0x7B, b := 0x33, c := 0x9F }
        flags := { at0100.flags with z := true, s := true } }
    t.regs.h = 0xD5 ∧ t.regs.l = 0x1A ∧ t.pc = 0x0101 ∧
      t.flags = ⟨true, true, false, false, false, false, false⟩ := by decide

/-- vA32 (R237): `DAD H`. -/
theorem test_dad_vA32 :
    let t := ran [0x29]
      { at0100 with
        regs := { at0100.regs with h := 0x80, l := 0x00 }
        flags := { at0100.flags with z := false } }
    t.regs.h = 0x00 ∧ t.regs.l = 0x00 ∧ t.pc = 0x0101 ∧
      t.flags = ⟨false, false, false, false, false, true, true⟩ := by decide

/-- vA35 (R238): `DSUB`. -/
theorem test_dsub_vA35 :
    let t := ran [0x08]
      { at0100 with
        regs := { at0100.regs with h := 0x12, l := 0x34, b := 0x12, c := 0x35 } }
    t.regs.h = 0xFF ∧ t.regs.l = 0xFF ∧ t.pc = 0x0101 ∧ t.flags.s = true ∧
      t.flags.k = true ∧ t.flags.v = false ∧ t.flags.cy = true := by decide

/-- vA36 (R238): `DSUB`. -/
theorem test_dsub_vA36 :
    let t := ran [0x08]
      { at0100 with
        regs := { at0100.regs with h := 0x80, l := 0x00, b := 0x00, c := 0x01 } }
    t.regs.h = 0x7F ∧ t.regs.l = 0xFF ∧ t.pc = 0x0101 ∧ t.flags.s = false ∧
      t.flags.k = true ∧ t.flags.v = true ∧ t.flags.cy = false := by decide

/-- vH1 (R245): `RLC`. -/
theorem test_rlc_vH1 :
    let t := ran [0x07]
      { at0100 with
        regs := { at0100.regs with a := 0xF2 }
        flags := { at0100.flags with cy := false } }
    t.regs.a = 0xE5 ∧ t.pc = 0x0101 ∧
      t.flags = ⟨false, false, false, false, false, false, true⟩ := by decide

/-- vH2 (R245): `RLC`. -/
theorem test_rlc_vH2 :
    let t := ran [0x07]
      { at0100 with
        regs := { at0100.regs with a := 0x01 }
        flags := { at0100.flags with cy := true } }
    t.regs.a = 0x02 ∧ t.pc = 0x0101 ∧
      t.flags = ⟨false, false, false, false, false, false, false⟩ := by decide

/-- vH3 (R246): `RRC`. -/
theorem test_rrc_vH3 :
    let t := ran [0x0F]
      { at0100 with
        regs := { at0100.regs with a := 0xF2 }
        flags := { at0100.flags with cy := true } }
    t.regs.a = 0x79 ∧ t.pc = 0x0101 ∧
      t.flags = ⟨false, false, false, false, false, false, false⟩ := by decide

/-- vH4 (R246): `RRC`. -/
theorem test_rrc_vH4 :
    let t := ran [0x0F]
      { at0100 with
        regs := { at0100.regs with a := 0x01 }
        flags := { at0100.flags with cy := false } }
    t.regs.a = 0x80 ∧ t.pc = 0x0101 ∧
      t.flags = ⟨false, false, false, false, false, false, true⟩ := by decide

/-- vH5 (R247): `RAL`. -/
theorem test_ral_vH5 :
    let t := ran [0x17]
      { at0100 with
        regs := { at0100.regs with a := 0xB5 }
        flags := { at0100.flags with cy := false } }
    t.regs.a = 0x6A ∧ t.pc = 0x0101 ∧
      t.flags = ⟨false, false, false, false, false, false, true⟩ := by decide

/-- vH6 (R247): `RAL`. -/
theorem test_ral_vH6 :
    let t := ran [0x17]
      { at0100 with
        regs := { at0100.regs with a := 0x00 }
        flags := { at0100.flags with cy := true } }
    t.regs.a = 0x01 ∧ t.pc = 0x0101 ∧
      t.flags = ⟨false, false, false, false, false, false, false⟩ := by decide

/-- vH7 (R248): `RAR`. -/
theorem test_rar_vH7 :
    let t := ran [0x1F]
      { at0100 with
        regs := { at0100.regs with a := 0x6A }
        flags := { at0100.flags with cy := true } }
    t.regs.a = 0xB5 ∧ t.pc = 0x0101 ∧
      t.flags = ⟨false, false, false, false, false, false, false⟩ := by decide

/-- vH8 (R248): `RAR`. -/
theorem test_rar_vH8 :
    let t := ran [0x1F]
      { at0100 with
        regs := { at0100.regs with a := 0x01 }
        flags := { at0100.flags with cy := false } }
    t.regs.a = 0x00 ∧ t.pc = 0x0101 ∧
      t.flags = ⟨false, false, false, false, false, false, true⟩ := by decide

/-- vH9 (R249): `ARHL`. -/
theorem test_arhl_vH9 :
    let t := ran [0x10]
      { at0100 with
        regs := { at0100.regs with h := 0x80, l := 0x03 }
        flags := { at0100.flags with cy := false } }
    t.regs.h = 0xC0 ∧ t.regs.l = 0x01 ∧ t.pc = 0x0101 ∧
      t.flags = ⟨false, false, false, false, false, false, true⟩ := by decide

/-- vH10 (R249): `ARHL`. -/
theorem test_arhl_vH10 :
    let t := ran [0x10]
      { at0100 with
        regs := { at0100.regs with h := 0x7F, l := 0xFE }
        flags := { at0100.flags with cy := true } }
    t.regs.h = 0x3F ∧ t.regs.l = 0xFF ∧ t.pc = 0x0101 ∧
      t.flags = ⟨false, false, false, false, false, false, false⟩ := by decide

/-- vH11 (R250): `RDEL`. -/
theorem test_rdel_vH11 :
    let t := ran [0x18]
      { at0100 with
        regs := { at0100.regs with d := 0x80, e := 0x01 }
        flags := { at0100.flags with cy := false } }
    t.regs.d = 0x00 ∧ t.regs.e = 0x02 ∧ t.pc = 0x0101 ∧
      t.flags = ⟨false, false, false, false, false, true, true⟩ := by decide

/-- vH13 (R250): `RDEL`. -/
theorem test_rdel_vH13 :
    let t := ran [0x18]
      { at0100 with
        regs := { at0100.regs with d := 0xC0, e := 0x00 }
        flags := { at0100.flags with cy := false } }
    t.regs.d = 0x80 ∧ t.regs.e = 0x00 ∧ t.pc = 0x0101 ∧
      t.flags = ⟨false, false, false, false, false, false, true⟩ := by decide

/-- vD1 (R255): `INR A`. -/
theorem test_inr_vD1 :
    let t := ran [0x3C]
      { at0100 with
        regs := { at0100.regs with a := 0xFF }
        flags := { at0100.flags with cy := true } }
    t.regs.a = 0x00 ∧ t.pc = 0x0101 ∧
      t.flags = ⟨false, true, false, true, true, false, true⟩ := by decide

/-- vD2 (R255): `INR B`. -/
theorem test_inr_vD2 :
    let t := ran [0x04]
      { at0100 with
        regs := { at0100.regs with b := 0x7F }
        flags := { at0100.flags with cy := false } }
    t.regs.b = 0x80 ∧ t.pc = 0x0101 ∧
      t.flags = ⟨true, false, false, true, false, true, false⟩ := by decide

/-- vD3 (R256): `INR M`. -/
theorem test_inr_vD3 :
    let t := ran [0x34]
      (withBytes [(0x2000, 0x99)]
        { at0100 with regs := { at0100.regs with h := 0x20, l := 0x00 } })
    t.pc = 0x0101 ∧ t.peek 0x2000 = 0x9A ∧
      t.flags = ⟨true, false, true, false, true, false, false⟩ := by decide

/-- vD4 (R257): `DCR A`. -/
theorem test_dcr_vD4 :
    let t := ran [0x3D]
      { at0100 with
        regs := { at0100.regs with a := 0x00 }
        flags := { at0100.flags with cy := false } }
    t.regs.a = 0xFF ∧ t.pc = 0x0101 ∧
      t.flags = ⟨true, false, true, false, true, false, false⟩ := by decide

/-- vD6 (R257): `DCR C`. -/
theorem test_dcr_vD6 :
    let t := ran [0x0D]
      { at0100 with regs := { at0100.regs with c := 0x80 } }
    t.regs.c = 0x7F ∧ t.pc = 0x0101 ∧
      t.flags = ⟨false, false, true, false, false, true, false⟩ := by decide

/-- vD7 (R258): `DCR M`. -/
theorem test_dcr_vD7 :
    let t := ran [0x35]
      (withBytes [(0x2000, 0x40)]
        { at0100 with regs := { at0100.regs with h := 0x20, l := 0x00 } })
    t.pc = 0x0101 ∧ t.peek 0x2000 = 0x3F ∧
      t.flags = ⟨false, false, false, false, true, false, false⟩ := by decide

/-- vD9 (R259): `INX D`. -/
theorem test_inx_vD9 :
    let t := ran [0x13]
      { at0100 with
        regs := { at0100.regs with d := 0xFF, e := 0xFF }
        flags := { at0100.flags with z := false } }
    t.regs.d = 0x00 ∧ t.regs.e = 0x00 ∧ t.pc = 0x0101 ∧
      t.flags = ⟨false, false, true, false, false, false, false⟩ := by decide

/-- vD10 (R259): `INX SP`. -/
theorem test_inx_vD10 :
    let t := ran [0x33]
      { at0100 with sp := 0xFFFF }
    t.sp = 0x0000 ∧ t.pc = 0x0101 ∧
      t.flags = ⟨false, false, true, false, false, false, false⟩ := by decide

/-- vD12 (R260): `DCX B`. -/
theorem test_dcx_vD12 :
    let t := ran [0x0B]
      { at0100 with
        regs := { at0100.regs with b := 0x00, c := 0x01 }
        flags := { at0100.flags with z := false, k := true } }
    t.regs.b = 0x00 ∧ t.regs.c = 0x00 ∧ t.pc = 0x0101 ∧
      t.flags = ⟨false, false, false, false, false, false, false⟩ := by decide

/-- vD13 (R260): `DCX SP`. -/
theorem test_dcx_vD13 :
    let t := ran [0x3B]
      { at0100 with sp := 0x0000 }
    t.sp = 0xFFFF ∧ t.pc = 0x0101 ∧
      t.flags = ⟨false, false, true, false, false, false, false⟩ := by decide

/-- vX1 (R265): `DAA`. -/
theorem test_daa_vX1 :
    let t := ran [0x27]
      { at0100 with regs := { at0100.regs with a := 0x9B } }
    t.regs.a = 0x01 ∧ t.pc = 0x0101 ∧
      t.flags = ⟨false, false, false, true, false, false, true⟩ := by decide

/-- vX3 (R265): `DAA`. -/
theorem test_daa_vX3 :
    let t := ran [0x27]
      { at0100 with
        regs := { at0100.regs with a := 0x22 }
        flags := { at0100.flags with cy := true, ac := true } }
    t.regs.a = 0x88 ∧ t.pc = 0x0101 ∧
      t.flags = ⟨true, false, false, false, true, true, true⟩ := by decide

/-- vX8 (R266): `CMA`. -/
theorem test_cma_vX8 :
    let t := ran [0x2F]
      { at0100 with regs := { at0100.regs with a := 0x51 } }
    t.regs.a = 0xAE ∧ t.pc = 0x0101 ∧ t.flags = at0100.flags := by decide

/-- vX9 (R266): `CMA`. -/
theorem test_cma_vX9 :
    let t := ran [0x2F]
      { at0100 with regs := { at0100.regs with a := 0xFF } }
    t.regs.a = 0x00 ∧ t.pc = 0x0101 ∧ t.flags = at0100.flags := by decide

/-- vX10 (R267): `STC`. -/
theorem test_stc_vX10 :
    let t := ran [0x37]
      { at0100 with flags := { at0100.flags with cy := false, z := true } }
    t.pc = 0x0101 ∧ t.flags = ⟨false, true, false, false, false, false, true⟩ := by decide

/-- vX11 (R268): `CMC`. -/
theorem test_cmc_vX11 :
    let t := ran [0x3F]
      { at0100 with flags := { at0100.flags with cy := true, s := true } }
    t.pc = 0x0101 ∧ t.flags = ⟨true, false, false, false, false, false, false⟩ := by decide

/-- vX12 (R268): `CMC`. -/
theorem test_cmc_vX12 :
    let t := ran [0x3F]
      { at0100 with flags := { at0100.flags with cy := false } }
    t.pc = 0x0101 ∧ t.flags = ⟨false, false, false, false, false, false, true⟩ := by decide

/-- vX13 (R269): `RIM`. -/
theorem test_rim_vX13 :
    let t := ran [0x20]
      { at0100 with
        regs := { at0100.regs with a := 0x00 }
        intr := { at0100.intr with ie := true, m75 := false, m65 := true, m55 := false, r75 := true }
        env := { at0100.env with pins := { Pins.low with rcd := true, pin8 := false, pin9 := true } } }
    t.regs.a = 0xDA ∧ t.pc = 0x0101 ∧ t.intr.ie = true ∧ t.intr.m75 = false ∧
      t.intr.m65 = true ∧ t.intr.m55 = false ∧ t.intr.r75 = true ∧ t.tfd = false ∧
      t.intr.eiDelay = false ∧ t.halted = false ∧ t.flags = at0100.flags := by decide

/-- vX14 (R269): `RIM`. -/
theorem test_rim_vX14 :
    let t := ran [0x20]
      { at0100 with
        regs := { at0100.regs with a := 0xFF }
        intr := { at0100.intr with ie := false, m75 := true, m65 := true, m55 := true, r75 := false }
        env := { at0100.env with pins := { Pins.low with rcd := false, pin8 := false, pin9 := false } } }
    t.regs.a = 0x07 ∧ t.pc = 0x0101 ∧ t.intr.ie = false ∧ t.intr.m75 = true ∧
      t.intr.m65 = true ∧ t.intr.m55 = true ∧ t.intr.r75 = false ∧ t.tfd = false ∧
      t.intr.eiDelay = false ∧ t.halted = false ∧ t.flags = at0100.flags := by decide

/-- vX15 (R270): `SIM`. -/
theorem test_sim_vX15 :
    let t := ran [0x30]
      { at0100 with
        regs := { at0100.regs with a := 0x0D }
        intr := { at0100.intr with ie := false, m75 := true, m65 := true, m55 := true, r75 := true }
        tfd := false }
    t.pc = 0x0101 ∧ t.intr.ie = false ∧ t.intr.m75 = true ∧ t.intr.m65 = false ∧
      t.intr.m55 = true ∧ t.intr.r75 = true ∧ t.tfd = false ∧
      t.intr.eiDelay = false ∧ t.halted = false ∧ t.flags = at0100.flags := by decide

/-- vX17 (R270): `SIM`. -/
theorem test_sim_vX17 :
    let t := ran [0x30]
      { at0100 with
        regs := { at0100.regs with a := 0xC0 }
        intr := { at0100.intr with ie := true, m75 := true, m65 := false, m55 := true, r75 := false }
        tfd := false }
    t.pc = 0x0101 ∧ t.intr.ie = true ∧ t.intr.m75 = true ∧ t.intr.m65 = false ∧
      t.intr.m55 = true ∧ t.intr.r75 = false ∧ t.tfd = true ∧
      t.intr.eiDelay = false ∧ t.halted = false ∧ t.flags = at0100.flags := by decide

/-- vK1 (R275): `NOP`. -/
theorem test_nop_vK1 :
    let t := ran [0x00]
      { at0100 with
        regs := { at0100.regs with a := 0x12 }
        intr := { at0100.intr with ie := false } }
    t.pc = 0x0101 ∧ t.intr.ie = false ∧ t.intr.m75 = true ∧ t.intr.m65 = true ∧
      t.intr.m55 = true ∧ t.intr.r75 = false ∧ t.tfd = false ∧
      t.intr.eiDelay = false ∧ t.halted = false ∧ t.flags = at0100.flags := by decide

/-- vK2 (R277): `EI`. -/
theorem test_ei_vK2 :
    let t := ran [0xFB]
      { at0100 with
        intr := { at0100.intr with ie := false, m75 := true, m65 := true, m55 := true, r75 := false }
        tfd := false }
    t.pc = 0x0101 ∧ t.intr.ie = true ∧ t.intr.m75 = true ∧ t.intr.m65 = true ∧
      t.intr.m55 = true ∧ t.intr.r75 = false ∧ t.tfd = false ∧
      t.intr.eiDelay = true ∧ t.halted = false ∧ t.flags = at0100.flags := by decide

/-- vK3 (R278): `DI`. -/
theorem test_di_vK3 :
    let t := ran [0xF3]
      { at0100 with
        intr := { at0100.intr with ie := true, m75 := false, m65 := false, m55 := false, r75 := true }
        tfd := false }
    t.pc = 0x0101 ∧ t.intr.ie = false ∧ t.intr.m75 = false ∧ t.intr.m65 = false ∧
      t.intr.m55 = false ∧ t.intr.r75 = true ∧ t.tfd = false ∧
      t.intr.eiDelay = false ∧ t.halted = false ∧ t.flags = at0100.flags := by decide

/-- vK4 (R276): `HLT`. -/
theorem test_hlt_vK4 :
    let t := ran [0x76]
      { at0100 with
        intr := { at0100.intr with ie := true, m75 := false, m65 := true, m55 := true, r75 := false }
        tfd := false }
    t.pc = 0x0101 ∧ t.intr.ie = true ∧ t.intr.m75 = false ∧ t.intr.m65 = true ∧
      t.intr.m55 = true ∧ t.intr.r75 = false ∧ t.tfd = false ∧
      t.intr.eiDelay = false ∧ t.halted = true ∧ t.flags = at0100.flags := by decide

/-! ## Free values -/

/-- With VK_EXACT false INR leaves free values in V and K (R39). -/
theorem test_inr_draws :
    (ran [0x3C] { at0100 with params := Params.default }).flags.v = Config.freeBit 0 ∧
      (ran [0x3C] { at0100 with params := Params.default }).flags.k = Config.freeBit 1 := ⟨rfl, rfl⟩

/-- An absent address reads as a free byte (R73). -/
theorem test_absent_reads_free :
    (ran [0x3A, 0x00, 0x81]
      { at0100 with params := { at0100.params with memMap := [⟨0x8100, 0x100, .absent⟩] } }).regs.a =
      Config.freeByte 0 := rfl

/-! ## Interrupts, halt and reset: the vectors vE1 to vE16 -/

/-- PC = 2003H, SP = 2400H, IE = 1, M6.5 = 0: the state of vE1. -/
def vE1 : State :=
  { at0100 with pc := 0x2003, sp := 0x2400, intr := { at0100.intr with ie := true, m65 := false } }

/-- PC = 1234H, SP = 4000H, IE = 1, pin 10 high, the device about to supply the bytes given. -/
def acknowledging (bytes : List Byte) : State :=
  { at0100 with
    pc := 0x1234
    sp := 0x4000
    intr := { at0100.intr with ie := true }
    env := { at0100.env with pins := { Pins.low with pin10 := true }, busIn := bytes } }

/-- All five requests at once. -/
def allPins : Pins := ⟨false, true, true, true, true, true⟩

/-- vE1 (R333). -/
theorem test_entry_vE1 :
    let t := stepped (vE1.sampling (.quiet { Pins.low with pin8 := true }))
    t.peek 0x23FF = 0x20 ∧ t.peek 0x23FE = 0x03 ∧ t.sp = 0x23FE ∧ t.pc = 0x0034 ∧
      t.intr.ie = false := by decide

/-- vE2 (R332). -/
theorem test_entry_vE2 :
    let s := { vE1 with intr := { vE1.intr with m75 := false } }
    let t := stepped
      (s.sampling { quiet with pins := { Pins.low with pin7 := true, pin8 := true }, edge7 := true })
    t.peek 0x23FF = 0x20 ∧ t.peek 0x23FE = 0x03 ∧ t.pc = 0x003C ∧ t.intr.r75 = false ∧
      t.intr.ie = false := by decide

/-- vE3 (R330). -/
theorem test_entry_vE3 :
    let s := { at0100 with pc := 0x0150, sp := 0x8000 }
    let t := stepped (s.sampling { quiet with pins := { Pins.low with pin6 := true }, edge6 := true })
    t.peek 0x7FFF = 0x01 ∧ t.peek 0x7FFE = 0x50 ∧ t.sp = 0x7FFE ∧ t.pc = 0x0024 ∧
      t.intr.trapFF = false ∧ t.intr.ieBeforeTrap = false ∧ t.intr.trapRimPending = true := by
  decide

/-- vE4: an edge without its level is latched and not taken (R305). -/
theorem test_entry_vE4 :
    let s := { at0100 with pc := 0x0150, sp := 0x8000, intr := { at0100.intr with ie := true } }
    let t := stepped (s.sampling { quiet with edge6 := true })
    t.intr.trapFF = true ∧ t.pc = 0x0151 ∧ t.sp = 0x8000 := by decide

/-- vE5 (R325). -/
theorem test_entry_vE5 :
    let t := stepped (acknowledging [0xFF])
    t.peek 0x3FFF = 0x12 ∧ t.peek 0x3FFE = 0x34 ∧ t.sp = 0x3FFE ∧ t.pc = 0x0038 ∧
      t.intr.ie = false := by decide

/-- vE6 (R325). -/
theorem test_entry_vE6 :
    let t := stepped (acknowledging [0xCD, 0x00, 0x50])
    t.peek 0x3FFF = 0x12 ∧ t.peek 0x3FFE = 0x34 ∧ t.pc = 0x5000 ∧
      t.env.trace = [.intaRead 0x50, .intaRead 0x00, .intaRead 0xCD] := by decide

/-- vE7 (R325, U8). -/
theorem test_entry_vE7 : step (acknowledging [0x00]) = .refused (.intaByte 0x00) := rfl

/-- vE8: the delay after EI, then RST 5.5 (R312). -/
theorem test_entry_vE8 :
    let s := { at0100 with
      pc := 0x0201, sp := 0x2400
      intr := { at0100.intr with ie := true, eiDelay := true, m55 := false }
      env := { at0100.env with pins := { Pins.low with pin9 := true } } }
    (stepped s).pc = 0x0202 ∧ (stepped s).intr.eiDelay = false ∧
      (stepped (stepped s)).pc = 0x002C := by decide

/-- vE9: TRAP ignores the delay (R312). -/
theorem test_entry_vE9 :
    let s := { at0100 with
      pc := 0x0201, sp := 0x2400, intr := { at0100.intr with ie := true, eiDelay := true } }
    let t := stepped (s.sampling { quiet with pins := { Pins.low with pin6 := true }, edge6 := true })
    t.pc = 0x0024 ∧ t.intr.ie = false ∧ t.intr.eiDelay = false ∧ t.intr.ieBeforeTrap = true := by
  decide

/-- vE10: the request waits (R304). -/
theorem test_entry_vE10 :
    let s := { at0100 with intr := { at0100.intr with m75 := false } }
    let t := stepped (s.sampling { quiet with edge7 := true })
    t.intr.r75 = true ∧ t.pc = 0x0101 := by decide

/-- vE12: RST 7.5 ends the halt (R335). -/
theorem test_entry_vE12 :
    let s := { at0100 with
      pc := 0x0101, sp := 0x2400, halted := true
      intr := { at0100.intr with ie := true, m75 := false } }
    let t := stepped (s.sampling { quiet with edge7 := true })
    t.halted = false ∧ t.peek 0x23FF = 0x01 ∧ t.peek 0x23FE = 0x01 ∧ t.pc = 0x003C := by decide

/-- vE13: with IE = 0 the machine stays halted (R335). -/
theorem test_entry_vE13 :
    let s := { at0100 with halted := true }
    let t := stepped (s.sampling { quiet with pins := { allPins with pin6 := false }, edge7 := true })
    t.halted = true ∧ t.pc = 0x0100 ∧ t.intr.r75 = true := by decide

/-- vE14: TRAP comes first (R306). -/
theorem test_entry_vE14 :
    let s := { at0100 with
      intr := { at0100.intr with ie := true, m55 := false, m65 := false, m75 := false, r75 := true } }
    let t := stepped (s.sampling { quiet with pins := allPins, edge6 := true })
    t.pc = 0x0024 ∧ t.intr.r75 = true := by decide

/-- vE15: reset leaves memory (R350). -/
theorem test_entry_vE15 :
    let s := { at0100.poke 0x2000 0x5A with
      halted := true, tfd := true, intr := { at0100.intr with ie := true, r75 := true } }
    let t := stepped (s.sampling { quiet with sr := true })
    t.pc = 0x0000 ∧ t.intr = State.reset.intr ∧ t.halted = false ∧ t.tfd = false ∧
      t.peek 0x2000 = 0x5A := ⟨rfl, rfl, rfl, rfl, rfl⟩

/-- vE16: RIM as the first instruction (R269). -/
theorem test_entry_vE16 :
    (stepped (State.reset.poke 0x0000 0x20)).regs.a = 0x07 ∧
      (stepped (State.reset.poke 0x0000 0x20)).pc = 0x0001 := by decide

/-- The first RIM after a TRAP shows the old IE, the second the present one (R331). -/
theorem test_rim_after_trap :
    let s := { at0100 with
      intr := { at0100.intr with ieBeforeTrap := true, trapRimPending := true } }
    (ran [0x20] s).regs.a = 0x0F ∧ (ran [0x20] (ran [0x20] s)).regs.a = 0x07 := by decide

/-- A hold: the other master writes ram, not rom, and no instruction runs (R340). -/
theorem test_hold :
    let s := { at0100 with
      params := { at0100.params with memMap := [⟨0x8000, 0x100, .rom⟩], dmaPresent := true } }
    let t := stepped (s.sampling { quiet with rqm := true, dmaWrites := [(0x2000, 0x11), (0x8000, 0x22)] })
    t.peek 0x2000 = 0x11 ∧ t.peek 0x8000 = 0x00 ∧ t.pc = 0x0100 ∧ t.env.trace = [.holdAck] := by
  decide

/-- Another master that will do this at the boundaries inside the coming slot. -/
def State.sharing (s : State) (holds : List (Option (List DmaWrite))) : State :=
  { s with params := { s.params with dmaPresent := true }, env := { s.env with holds := holds } }

/-- LHLD 2000H with a hold between its two data reads: L is old, H is the other master's (R69, R340). -/
theorem test_torn_lhld :
    (ran [0x2A, 0x00, 0x20] (((at0100.poke 0x2000 0x11).poke 0x2001 0x22).sharing
      [none, none, none, none, some [(0x2000, 0xAA), (0x2001, 0xBB)]])).hl = 0xBB11 := by decide

/-- INR M with a hold between read and write: the other master's byte is lost (R69, R77). -/
theorem test_torn_inr_m :
    let t := ran [0x34] ((withBytes [(0x2000, 0x05)]
      { at0100 with regs := { at0100.regs with h := 0x20 } }).sharing
        [none, none, some [(0x2000, 0x77)]])
    t.peek 0x2000 = 0x06 ∧ t.env.trace = [.holdAck] ∧ t.env.holds = [] := by decide

/-- Without DMA_PRESENT no other master writes (R340). -/
theorem test_no_other_master :
    (stepped (at0100.sampling { quiet with rqm := true, dmaWrites := [(0x2000, 0x11)] })).peek 0x2000 =
      0x00 := by decide

/-- With EXT10 refused DSUB is refused by its name (R101, R238). -/
theorem test_ext10_refused :
    exec .dsub { at0100 with params := { at0100.params with ext10 := false } } =
      .refused (.ext10 "DSUB") := rfl

/-- A machine at SHLD 2000H in whose slot reset is asserted (R351). -/
def cutting : State :=
  (placeBytes at0100 0x0100 [0x22, 0x00, 0x20]).sampling { quiet with cut := some 0 }

/-- The bytes the cut SHLD could have written are torn: the second holds a free value (R351). -/
theorem test_reset_cuts_shld :
    (stepped cutting).pc = 0x0000 ∧ (stepped cutting).peek 0x2001 = Config.freeByte 1 ∧
      slotStores cutting.sampled = [0x2000, 0x2001] :=
  ⟨rfl, Memory.get_set_same _ _ _, by decide⟩

/-! ## Witnesses: a state and operands that meet a statement's hypotheses, clause by clause -/

/-- Address 8000H to 80FFH rom, 8100H to 81FFH absent, 8200H a device, the rest ram. -/
def mapped : State :=
  { at0100 with
    params := { at0100.params with
      memMap := [⟨0x8000, 0x100, .rom⟩, ⟨0x8100, 0x100, .absent⟩, ⟨0x8200, 1, .device⟩] }
    env := { at0100.env with busIn := [0xA5] } }

/-- A two-byte instruction that wraps from FFFFH to 0000H. -/
def wrapping : State := placeBytes { at0100 with pc := 0xFFFF } 0xFFFF [0x3E, 0x5A]

theorem witness_DecodeInvertsEncode :
    (Instr.push .hl).wellFormed = true ∧ (Instr.stax .de).wellFormed = true ∧
      Instr.nop.wellFormed = true := by decide

theorem witness_StepRunsDecodedInstruction :
    runsProgram wrapping = true ∧
      decode [wrapping.code 0, wrapping.code 1, wrapping.code 2] = .ok (.mviR .a 0x5A, [0x00]) ∧
      (∀ k, k < lengthOf (wrapping.code 0) → wrapping.plain (wrapping.pc + BitVec.ofNat 16 k) ∧
        wrapping.pc + BitVec.ofNat 16 k ∉ wrapping.dmaAddrs) ∧
      wrapping.params.dmaPresent = false := by decide

theorem witness_EveryInstructionCompletesInItsFrame :
    (footprint .nop).ext10 = false ∧ (footprint .dsub).ext10 = true ∧ at0100.params.ext10 = true := by
  decide

theorem witness_StepKeepsInvariant :
    ({ at0100.poke 0x2000 0x5A with intr := { at0100.intr with ie := true, eiDelay := true } } :
        State).inv = true ∧
      steps { at0100.poke 0x2000 0x5A with
        intr := { at0100.intr with ie := true, eiDelay := true } } = true := by decide

theorem witness_StepKeepsNonRamBytes :
    steps (placeBytes mapped 0x0100 [0x32, 0xFF, 0x80]) = true ∧ mapped.kindAt 0x80FF ≠ .ram ∧
      mapped.kindAt 0x8200 ≠ .ram := by decide

theorem witness_DataAccessesFollowTheirTable :
    at0100.params.memMap = [] ∧ (∃ t, exec (.lda 0x2000) at0100 = .next t) ∧
      (∀ p, Instr.lda 0x2000 ≠ .inPort p) ∧ ∀ p, Instr.lda 0x2000 ≠ .outPort p :=
  ⟨rfl, ⟨_, rfl⟩, nofun, nofun⟩

theorem witness_ResetInputActsFirst :
    (nextSample (at0100.sampling { quiet with sr := true, rqm := true })).sr = true := by decide

theorem witness_ResetInsideASlotTearsItsStores :
    (nextSample cutting).sr = false ∧ (nextSample cutting).rqm = false ∧
      (nextSample cutting).cut = some 0 ∧ (∃ u, slot cutting.sampled = .next u) ∧
      0x2000#16 ∈ slotStores cutting.sampled ∧ 0x2001#16 ∈ slotStores cutting.sampled ∧
      cutting.kindAt 0x2001 = .ram ∧ 0x2002#16 ∉ slotStores cutting.sampled ∧
      0x2002#16 ∉ cutting.dmaAddrs ∧ winner cutting.sampled = none ∧ cutting.halted = false :=
  ⟨rfl, rfl, rfl, ⟨_, rfl⟩, by decide, by decide, by decide, by decide, by decide, by decide, by decide⟩

/-- The same of a cut halt slot, of a cut interrupt entry, and of a byte that is not ram. -/
theorem witness_ResetInsideASlot_halt_and_entry :
    let idle : State := { at0100 with halted := true }.sampling { quiet with cut := some 0 }
    let entering : State := ({ at0100 with intr := { at0100.intr with trapFF := true } } : State).sampling
      { quiet with pins := { Pins.low with pin6 := true }, cut := some 1 }
    (nextSample idle).cut = some 0 ∧ winner idle.sampled = none ∧ idle.halted = true ∧
      (nextSample entering).cut = some 1 ∧ winner entering.sampled ≠ none ∧
      steps idle = true ∧ steps entering = true ∧ mapped.kindAt 0x8000 ≠ .ram := by decide

/-- The other master writes at 8000H, without effect, and at 2000H. -/
def holding : State :=
  (mapped.sharing []).sampling
    { quiet with rqm := true, dmaWrites := [(0x8000, 0x22), (0x2000, 0x11)] }

theorem witness_HoldChangesNoProcessorState :
    (nextSample holding).sr = false ∧ (nextSample holding).rqm = true ∧
      (∀ v, (0x2001#16, v) ∉ (nextSample holding).dmaWrites) ∧ holding.kindAt 0x8000 ≠ .ram ∧
      holding.params.dmaPresent = true ∧ holding.kindAt 0x2000 = .ram ∧
      (nextSample holding).dmaWrites = [(0x8000, 0x22)] ++ [(0x2000, 0x11)] := by
  refine ⟨rfl, rfl, fun v h => ?_, by decide, rfl, by decide, rfl⟩
  simp [holding, State.sampling, nextSample] at h

theorem witness_HoldFallsBetweenTransfers :
    let s : State := at0100.sharing [none, some [(at0100.hl, 0x77)]]
    let t : State := at0100.sharing [none, some [(at0100.hl + 1, 0x77)]]
    s.params.dmaPresent = true ∧ s.env.holds = none :: some [(s.hl, 0x77)] :: [] ∧
      t.env.holds = none :: some [(s.hl + 1, 0x77)] :: [] ∧ s.kindAt s.hl = .ram ∧
      s.kindAt (s.hl + 1) = .ram ∧ at0100.params.dmaPresent = false ∧
      (at0100.sharing [some [(0x2000, 1)]]).env.holds = some ([] ++ [(0x2000, 1)]) :: [] ∧
      (at0100.sharing [none]).env.holds = none :: [] := by decide

/-- R7.5 latched, SIM with bit 4 about to run. -/
def cancelling : State :=
  { placeBytes at0100 0x0100 [0x30] with
    regs := { at0100.regs with a := 0x10 }
    intr := { at0100.intr with r75 := true } }

theorem witness_EdgesAreLatched :
    steps cancelling = true ∧ (nextSample cancelling).sr = false ∧
      (nextSample cancelling).cut = none ∧ cancelling.sampled.intr.r75 = true ∧
      (stepped cancelling).intr.r75 = false ∧
      (let s : State := { at0100 with
        intr := { at0100.intr with trapFF := true }
        env := { at0100.env with pins := { Pins.low with pin6 := true } } }
       steps s = true ∧ s.sampled.intr.trapFF = true ∧ (stepped s).intr.trapFF = false) := by decide

/-- TRAP latched, its pin high. -/
def trapping : State :=
  { at0100 with
    sp := 0x2400
    intr := { at0100.intr with trapFF := true, ie := true, eiDelay := true }
    env := { at0100.env with pins := { Pins.low with pin6 := true } } }

theorem witness_TrapIsTakenAtOnce :
    undisturbed trapping = true ∧ pendTrap trapping.sampled = true := by decide

theorem witness_MaskableEntriesGoToTheirVectors :
    let s (p : Pins) : State := { at0100 with
      intr := { at0100.intr with ie := true, m55 := false, m65 := false, m75 := false, r75 := p.pin7 }
      env := { at0100.env with pins := p } }
    undisturbed (s allPins) = true ∧
      winner (s { allPins with pin6 := false }).sampled = some .rst75 ∧
      winner (s { allPins with pin7 := false }).sampled = some .rst65 ∧
      winner (s { Pins.low with pin9 := true, pin10 := true }).sampled = some .rst55 := by decide

theorem witness_AcknowledgeRunsRestartOrCall :
    undisturbed (acknowledging [0xFF]) = true ∧
      winner (acknowledging [0xFF]).sampled = some .intr ∧
      (acknowledging [0xFF]).params.intaRst = true ∧
      (acknowledging [0xFF]).env.busIn = opAt53 0xC7 ((7#3).setWidth 8) :: [] ∧
      (acknowledging [0xCD, 0x00, 0x50]).params.intaCall = true ∧
      (acknowledging [0xCD, 0x00, 0x50]).env.busIn = 0xCD :: 0x00 :: 0x50 :: [] ∧
      (∀ n : BitVec 3, 0xC6#8 ≠ opAt53 0xC7 (n.setWidth 8)) ∧
      winner (acknowledging [0xC6]).sampled = some .intr := by decide

theorem witness_EiDelaysMaskableInterrupts :
    trapping.intr.eiDelay = true ∧ pendTrap trapping.sampled = true ∧
      runsProgram at0100 = true ∧ steps at0100 = true ∧
      (fetchInstr at0100.sampled.clearEiDelay).1 ≠ .ei := by decide

theorem witness_HaltEndsOnlyByInterruptOrReset :
    let waiting : State := { at0100 with halted := true }
    let woken : State := { trapping with halted := true }
    undisturbed waiting = true ∧ winner waiting.sampled = none ∧ waiting.intr.ie = false ∧
      undisturbed woken = true ∧ winner woken.sampled ≠ none ∧ steps woken = true ∧
      (nextSample (waiting.sampling { quiet with sr := true })).sr = true ∧
      (nextSample (waiting.sampling { quiet with rqm := true })).rqm = true ∧
      (nextSample (waiting.sampling { quiet with cut := some 0 })).cut ≠ none ∧
      steps (waiting.sampling { quiet with cut := some 0 }) = true := by decide

theorem witness_AccessesFollowTheMemoryMap :
    mapped.params.dmaPresent = false ∧ 0x2000#16 ∉ mapped.dmaAddrs ∧
      mapped.kindAt 0x7FFF = .ram ∧ mapped.kindAt 0x8000 = .rom ∧ mapped.kindAt 0x80FF = .rom ∧
      mapped.kindAt 0x8100 = .absent ∧ mapped.kindAt 0x81FF = .absent ∧
      mapped.kindAt 0x8200 = .device ∧ mapped.kindAt 0x8201 = .ram ∧
      mapped.env.busIn = 0xA5 :: [] := by decide

theorem witness_WordAccessesAreLittleEndian :
    at0100.kindAt 0xFFFF = .ram ∧ at0100.kindAt (0xFFFF + 1) = .ram ∧
      at0100.kindAt (at0100.sp - 1) = .ram ∧ at0100.kindAt (at0100.sp - 2) = .ram ∧
      0xFFFF#16 ∉ at0100.dmaAddrs ∧ 0xFFFF#16 + 1 ∉ at0100.dmaAddrs ∧
      at0100.sp - 1 ∉ at0100.dmaAddrs ∧ at0100.params.dmaPresent = false := by decide

theorem witness_StackPrimitivesPushAndPop :
    at0100.plain at0100.sp ∧ at0100.plain (at0100.sp + 1) ∧ at0100.sp ∉ at0100.dmaAddrs ∧
      at0100.sp + 1 ∉ at0100.dmaAddrs ∧
      (let s : State := { at0100 with
        params := { at0100.params with memMap := [⟨0, 0x10000, .device⟩] } }
       s.kindAt (s.sp - 1) = .device ∧ s.kindAt (s.sp - 2) = .device ∧ s.env.holds = []) := by decide

theorem witness_AddressedLoadsAndStores :
    (Pair.bc = .bc ∨ Pair.bc = .de) ∧ (Pair.de = .bc ∨ Pair.de = .de) ∧
      0x2000#16 ∉ at0100.dmaAddrs ∧ at0100.params.ext10 = true ∧
      ({ Params.default with ext10 := false } : Params).ext10 = false := by decide

theorem witness_StackInstructionsMovePairs : Pair.bc ≠ .sp ∧ Pair.hl ≠ .sp := by decide

theorem witness_PswHoldsAccumulatorAndFlags :
    let s (o : OpenBit) : State := { at0100 with params := { at0100.params with flagBit3 := o } }
    (s .zero).params.flagBit3 = .zero ∧ (s .one).params.flagBit3 = .one ∧
      (s .draw).params.flagBit3 = .draw := by decide

theorem witness_PopUndoesPush :
    at0100.kindAt (at0100.sp - 1) = .ram ∧ at0100.kindAt (at0100.sp - 2) = .ram ∧
      at0100.sp - 1 ∉ at0100.dmaAddrs ∧ at0100.sp - 2 ∉ at0100.dmaAddrs ∧
      (∃ t u, exec (.push .bc) at0100 = .next t ∧ exec (.pop .de) t = .next u) ∧
      (∃ t u, exec .pushPsw at0100 = .next t ∧ exec .popPsw t = .next u) ∧
      ∃ t u, exec (.call 0x3000) at0100 = .next t ∧ exec .ret t = .next u :=
  ⟨by decide, by decide, by decide, by decide, ⟨_, _, rfl, rfl⟩, ⟨_, _, rfl, rfl⟩, ⟨_, _, rfl, rfl⟩⟩

theorem witness_CallsFollowTheirTest :
    at0100.flags.z = false ∧ (ran [0xAF] at0100).flags.z = true ∧
      (ran [0x37] at0100).flags.cy = true ∧ (ran [0xAF] at0100).flags.p = true ∧
      (ran [0x3D] at0100).flags.s = true := by decide

theorem witness_ReturnsFollowTheirTest :
    at0100.plain at0100.sp ∧ at0100.plain (at0100.sp + 1) ∧ at0100.sp ∉ at0100.dmaAddrs ∧
      at0100.sp + 1 ∉ at0100.dmaAddrs ∧ at0100.flags.z = false ∧
      (ran [0xAF] at0100).flags.z = true := by decide

theorem witness_RestartsCallFixedAddresses :
    at0100.flags.v = false ∧
      (ran [0x3C] { at0100 with regs := { at0100.regs with a := 0x7F } }).flags.v = true := by
  decide

theorem witness_PortInstructionsMoveA :
    mapped.env.busIn = 0xA5 :: [] ∧ at0100.env.busIn = [] := by decide

theorem witness_FreeOverflowAndAuxiliarySign :
    let s : State := { at0100 with params := Params.default }
    s.params.vkExact = false ∧ (footprint (.addR .b)).flagRow = true ∧
      (footprint .cma).flagRow = true ∧ Instr.cma ≠ .popPsw ∧
      (∃ t, exec (.addR .b) s = .next t) ∧ ∃ t, exec .cma s = .next t :=
  ⟨rfl, rfl, rfl, by decide, ⟨_, rfl⟩, ⟨_, rfl⟩⟩

/-- What AdditionsAddToA, SubtractionsSubtractFromA, ComparisonsSetFlagsOnly, DadAddsAPair, DsubSubtractsBc,
RotatesMoveOneBit, WideShiftsMoveOneBit, IncrementsAndDecrementsByOne, PairCountersWrap,
DaaAddsItsCorrection and AccumulatorCarryAndControl suppose of the state in their clauses about V and K. -/
theorem witness_exact_flags :
    at0100.params.vkExact = true ∧ State.reset.params.vkExact = false := by decide

theorem witness_LogicWorksBitByBit :
    let s (o : OpenBit) : State := { at0100 with params := { at0100.params with anaAc := o } }
    (s .one).params.anaAc = .one ∧ (s .zero).params.anaAc = .zero ∧
      (s .draw).params.anaAc = .draw ∧ State.reset.params.vkExact = false ∧
      (s .one).params.vkExact = true := by decide

theorem witness_DadThenRdelShifts32Bits :
    ∃ t u, exec (.dad .hl) at0100 = .next t ∧ exec .rdel t = .next u := ⟨_, _, rfl, rfl⟩

theorem witness_DaaCompletesDecimalAddition :
    let s : State := { at0100 with regs := { at0100.regs with a := 0x99 } }
    isPackedDecimal s.regs.a = true ∧ isPackedDecimal 0x99 = true ∧
      ∃ t u, exec (.aci 0x99) s = .next t ∧ exec .daa t = .next u :=
  ⟨by decide, by decide, ⟨_, _, rfl, rfl⟩⟩

theorem witness_RimReadsInterruptState :
    let s (r : TrapRim) : State := { at0100 with
      intr := { at0100.intr with trapRimPending := true }
      params := { at0100.params with trapRim := r } }
    at0100.intr.trapRimPending = false ∧ (s .savedIE).intr.trapRimPending = true ∧
      (s .savedIE).params.trapRim = .savedIE ∧ (s .draw).params.trapRim = .draw ∧
      (s .currentIE).params.trapRim = .currentIE := by decide

theorem witness_SimWritesInItsThreeParts :
    let s (v : Byte) : State := { at0100 with regs := { at0100.regs with a := v } }
    (s 0x58).regs.a.getLsbD 3 = true ∧ (s 0x58).regs.a.getLsbD 4 = true ∧
      (s 0x58).regs.a.getLsbD 6 = true ∧ (s 0xA7).regs.a.getLsbD 3 = false ∧
      (s 0xA7).regs.a.getLsbD 4 = false ∧ (s 0xA7).regs.a.getLsbD 6 = false := by decide

end Sys2Proof.Machine
end

section
/-! SUPPORT. The values of the reset state (R53), and S, Z, P against plain arithmetic: the sign as a bound,
zero as a value, parity as a count of ones (R32). -/

namespace Sys2Proof.Machine

/-! ## Reset -/

/-- Settles O12: each conjunct is the field's value as the definition of the reset state lists it (R53). -/
theorem resetStateHasSpecValues : Obligations.ResetStateHasSpecValues :=
  ⟨rfl, rfl, rfl, rfl, rfl, rfl, rfl, rfl, rfl, rfl, rfl, rfl⟩

/-! ## Parity and the count of ones -/

/-- An exclusive or along a list flips its start once for every element that passes the test. -/
theorem foldl_xor_eq_bodd_countP {α : Type} (p : α → Bool) (l : List α) (b : Bool) :
    l.foldl (fun acc i => acc ^^ p i) b = (b ^^ (l.countP p).bodd) := by
  induction l generalizing b with
  | nil => simp
  | cons x xs ih =>
    rw [List.foldl_cons, ih]
    cases hx : p x <;> simp [hx]

theorem parity_eq_not_bodd_onesIn (v : Byte) : parity v = !(onesIn v).bodd := by
  have hfold : parity v = !(List.range 8).foldl (fun acc i => acc ^^ v.getLsbD i) false := by
    simp [parity, List.range_succ]
  rw [hfold, foldl_xor_eq_bodd_countP, Bool.false_xor, onesIn]

/-- Parity says that the number of ones is even (R32). -/
theorem parity_iff_onesIn_even (v : Byte) : parity v = true ↔ onesIn v % 2 = 0 := by
  rw [parity_eq_not_bodd_onesIn, Nat.mod_two_of_bodd]
  cases (onesIn v).bodd <;> simp

theorem onesIn_le_eight (v : Byte) : onesIn v ≤ 8 := by
  simpa [onesIn] using List.countP_le_length (p := v.getLsbD) (l := List.range 8)

/-! ## S, Z and P of a result -/

/-- Bit 7 says that the byte is at least 128. -/
theorem getLsbD_seven_iff (v : Byte) : v.getLsbD 7 = true ↔ 128 ≤ v.toNat := by
  have hmsb : v.getLsbD 7 = v.msb := (BitVec.msb_eq_getLsbD_last v).symm
  rw [hmsb, BitVec.msb_eq_decide, decide_eq_true_iff]

/-- Flags are S, Z, P of a result exactly when they hold what `setSzp` writes. -/
theorem szpOf_iff (f : Flags) (res : Byte) :
    SzpOf f res ↔ f.s = res.getLsbD 7 ∧ f.z = decide (res = 0) ∧ f.p = parity res := by
  have hs : (f.s = true ↔ 128 ≤ res.toNat) ↔ f.s = res.getLsbD 7 := by
    rw [← getLsbD_seven_iff, ← Bool.eq_iff_iff]
  have hz : (f.z = true ↔ res.toNat = 0) ↔ f.z = decide (res = 0) := by
    rw [Bool.eq_iff_iff (b := decide _), decide_eq_true_iff, BitVec.toNat_eq]
    simp
  have hp : (f.p = true ↔ onesIn res % 2 = 0) ↔ f.p = parity res := by
    rw [← parity_iff_onesIn_even, ← Bool.eq_iff_iff]
  rw [SzpOf, hs, hz, hp]

theorem szpOf_setSzp (s : State) (res : Byte) : SzpOf (s.setSzp res).flags res :=
  (szpOf_iff _ _).2 ⟨rfl, rfl, rfl⟩

/-- Settles O43: the flags are those `setSzp` writes, and parity is evenness of a count of at most eight. -/
theorem szpFollowTheResult : Obligations.SzpFollowTheResult := by
  intro s res
  refine ⟨szpOf_setSzp s res, ?_⟩
  have hle := onesIn_le_eight res
  rw [parity_iff_onesIn_even]
  omega

end Sys2Proof.Machine
end

section
/-! SUPPORT. Two-byte accesses to memory: where the bytes of a word written to ram stand, and that a read
gives the word back (R66). -/

namespace Sys2Proof.Machine

variable {s : State}

/-- A write of one byte gives the other master nothing more to write. -/
theorem not_mem_dmaAddrs_memWrite {a b : Word} (v : Byte) (d : b ∉ s.dmaAddrs) :
    b ∉ (memWrite s a v).dmaAddrs :=
  let ⟨_, later, _⟩ := storesOnly_memWrite (s := s) a v
  later b d

theorem not_mem_dmaAddrs_memWrite16 {a b : Word} (v : Word) (d : b ∉ s.dmaAddrs) :
    b ∉ (memWrite16 s a v).dmaAddrs :=
  not_mem_dmaAddrs_memWrite _ (not_mem_dmaAddrs_memWrite _ d)

@[simp] theorem kindAt_memWrite16 (a b v : Word) : (memWrite16 s a v).kindAt b = s.kindAt b :=
  kindAt_of_params_eq (by simp) b

/-- The high byte is the last one written, so no hold can fall after it within the access. -/
theorem peek_memWrite16_high {a : Word} (v : Word) (h : s.kindAt (a + 1) = .ram) :
    (memWrite16 s a v).peek (a + 1) = hiByte v :=
  peek_memWrite_ram _ (by simpa using h)

/-- The low byte stays as written through the second machine cycle, where the other master does not write
it (R69). -/
theorem peek_memWrite16_low {a : Word} (v : Word) (h : s.kindAt a = .ram) (d : a ∉ s.dmaAddrs) :
    (memWrite16 s a v).peek a = loByte v := by
  have kept : (memWrite16 s a v).peek a = (memWrite s a (loByte v)).peek a :=
    peek_memWrite_ne _ (word_succ_ne a).symm (not_mem_dmaAddrs_memWrite _ d)
  exact kept.trans (peek_memWrite_ram _ h)

/-- A word written to ram that the other master does not write reads back (R66). -/
theorem memRead16_memWrite16 {a : Word} (v : Word) (h : s.kindAt a = .ram)
    (h' : s.kindAt (a + 1) = .ram) (d : a ∉ s.dmaAddrs) (d' : a + 1 ∉ s.dmaAddrs) :
    (memRead16 (memWrite16 s a v) a).1 = v := by
  rw [memRead16_quiet (.inl (by simpa using h)) (.inl (by simpa using h'))
      (not_mem_dmaAddrs_memWrite16 v d) (not_mem_dmaAddrs_memWrite16 v d'),
    peek_memWrite16_high v h', peek_memWrite16_low v h d, mkWord_hiByte_loByte]

/-- Without another master a read of plain memory leaves the whole state as it is. -/
theorem memRead16_absent {a : Word} (h : s.kindAt a = .ram ∨ s.kindAt a = .rom)
    (h' : s.kindAt (a + 1) = .ram ∨ s.kindAt (a + 1) = .rom) (p : s.params.dmaPresent = false) :
    (memRead16 s a).2 = s := by
  simp only [memRead16_plain h h', atCycle_absent s p]

/-- The two bytes of a push stand in the order a two-byte read at the new SP takes them (R66, R140). -/
theorem push16_littleEndian (w : Word) (h1 : s.kindAt (s.sp - 1) = .ram)
    (h2 : s.kindAt (s.sp - 2) = .ram) (d : s.sp - 1 ∉ s.dmaAddrs) :
    (push16 s w).peek (push16 s w).sp = loByte w ∧
      (push16 s w).peek ((push16 s w).sp + 1) = hiByte w := by
  obtain ⟨high, low⟩ := push16_ram w h1 h2 d
  have above : s.sp - 2 + 1 = s.sp - 1 := by bv_omega
  rw [push16_sp, above]
  exact ⟨low, high⟩

/-- Settles O26: the accesses are defined byte by byte, and on ram each byte stays where it was written. -/
theorem wordAccessesAreLittleEndian : Obligations.WordAccessesAreLittleEndian := by
  intro s a v
  refine ⟨rfl, rfl, by decide, fun h h' => ⟨peek_memWrite16_high v h', peek_memWrite16_low v h,
    memRead16_memWrite16 v h h', fun p => ?_⟩, fun w => push16_littleEndian w⟩
  have quiet (b : Word) : b ∉ s.dmaAddrs := by simp [dmaAddrs_absent p]
  exact Prod.ext (memRead16_memWrite16 v h h' (quiet a) (quiet (a + 1)))
    (memRead16_absent (.inl (by simpa using h)) (.inl (by simpa using h')) (by simpa using p))

end Sys2Proof.Machine
end

section
/-! SUPPORT. The bit tests of the length (R97) as lists of opcodes: a test under a mask is passed by the bytes
that fill the bits the mask leaves free. -/

namespace Sys2Proof

open Sys2Proof.Machine

/-! ## Mask tests -/

/-- The values of the bits 5-3, which the mask C7H leaves free: a register, a condition or an operation
(R92). -/
def middleFields : List Byte := [0x00, 0x08, 0x10, 0x18, 0x20, 0x28, 0x30, 0x38]

theorem and_C7_mem_middleFields (b : Byte) : ∃ f ∈ middleFields, b = (b &&& 0xC7#8) + f := by
  revert b; decide

theorem add_middleField_and_C7 (v : Byte) (fixed : v &&& 0xC7#8 = v) :
    ∀ f ∈ middleFields, (v + f) &&& 0xC7#8 = v := by
  revert v; decide

/-- A byte passes a test under the mask C7H when it is the tested value with some field put in. -/
theorem and_C7_eq_iff {b v : Byte} (fixed : v &&& 0xC7#8 = v) :
    b &&& 0xC7#8 = v ↔ b ∈ middleFields.map (v + ·) := by
  rw [List.mem_map]
  constructor
  · rintro rfl
    obtain ⟨f, hf, e⟩ := and_C7_mem_middleFields b
    exact ⟨f, hf, e.symm⟩
  · rintro ⟨f, hf, rfl⟩
    exact add_middleField_and_C7 v fixed f hf

theorem and_CF_eq_01_iff (b : Byte) : b &&& 0xCF#8 = 0x01#8 ↔ b ∈ [0x01#8, 0x11, 0x21, 0x31] := by
  revert b; decide

theorem and_E7_eq_22_iff (b : Byte) : b &&& 0xE7#8 = 0x22#8 ↔ b ∈ [0x22#8, 0x2A, 0x32, 0x3A] := by
  revert b; decide

theorem and_F7_eq_D3_iff (b : Byte) : b &&& 0xF7#8 = 0xD3#8 ↔ b ∈ [0xD3#8, 0xDB] := by
  revert b; decide

/-! ## The length -/

/-- The first bytes that pass a test for length 3, group by group: conditional jumps, conditional calls, LXI,
the direct loads and stores, and JMP, CALL, JNK, JK. -/
def threeByteOpcodes : List Byte :=
  middleFields.map (0xC2#8 + ·) ++ (middleFields.map (0xC4#8 + ·) ++
    ([0x01#8, 0x11, 0x21, 0x31] ++ ([0x22#8, 0x2A, 0x32, 0x3A] ++ [0xC3#8, 0xCD#8, 0xDD#8, 0xFD#8])))

/-- The first bytes that pass a test for length 2: MVI, the immediate operations, OUT and IN, LDHI and
LDSI. -/
def twoByteOpcodes : List Byte :=
  middleFields.map (0x06#8 + ·) ++ (middleFields.map (0xC6#8 + ·) ++ ([0xD3#8, 0xDB] ++ [0x28#8, 0x38#8]))

/-- The bit tests of the length are memberships in the groups. -/
theorem lengthOf_eq (b : Byte) :
    lengthOf b = if b ∈ threeByteOpcodes then 3 else if b ∈ twoByteOpcodes then 2 else 1 := by
  refine if_congr ?threeBytes rfl (if_congr ?twoBytes rfl rfl)
  case threeBytes =>
    have conditionalJumps := and_C7_eq_iff (b := b) (v := 0xC2#8) rfl
    have conditionalCalls := and_C7_eq_iff (b := b) (v := 0xC4#8) rfl
    rw [conditionalJumps, conditionalCalls, and_CF_eq_01_iff, and_E7_eq_22_iff]
    simp only [threeByteOpcodes, List.mem_append, List.mem_cons, List.not_mem_nil, or_false]
  case twoBytes =>
    have moveImmediates := and_C7_eq_iff (b := b) (v := 0x06#8) rfl
    have immediateOperations := and_C7_eq_iff (b := b) (v := 0xC6#8) rfl
    rw [moveImmediates, immediateOperations, and_F7_eq_D3_iff]
    simp only [twoByteOpcodes, List.mem_append, List.mem_cons, List.not_mem_nil, or_false]

/-- Settles O3: the listed opcodes are the groups of the bit tests in another order. -/
theorem firstByteFixesLength : Obligations.FirstByteFixesLength := by
  intro b
  rw [lengthOf_eq]
  exact if_congr (List.Perm.mem_iff (by decide)) rfl
    (if_congr (List.Perm.mem_iff (by decide)) rfl rfl)

end Sys2Proof
end

section
/-! SUPPORT. Decoding by the length of the first byte: an instruction's bytes decode to it where the first byte
fixes that many bytes and `decodeBytes` answers it (R97, R98). -/

namespace Sys2Proof

open Sys2Proof.Machine

theorem encodes_one {b : Byte} {i : Instr} (len : lengthOf b = 1) (d : decodeBytes b 0 0 = i) :
    Encodes [b] i := by
  intro rest
  simpa [decode, len] using d

theorem encodes_two {b v : Byte} {i : Instr} (len : lengthOf b = 2) (d : decodeBytes b v 0 = i) :
    Encodes [b, v] i := by
  intro rest
  simpa [decode, len] using d

theorem encodes_three {b : Byte} {mk : Word → Instr} (len : lengthOf b = 3)
    (d : ∀ lo hi, decodeBytes b lo hi = mk (mkWord hi lo)) : Encodes3 b mk := by
  intro lo hi rest
  simp [decode, len, d]

end Sys2Proof
end

section
/-! SUPPORT. What a byte stored on the bus leaves behind, when other transfers come before and after it (R66,
R73). -/

namespace Sys2Proof.Machine

variable {s t u : State}

/-- What a store does, kind by kind. -/
theorem stored_iff {a : Word} {v : Byte} :
    Stored s t a v ↔
      (s.kindAt a = .ram → t.peek a = v) ∧ (s.kindAt a ≠ .ram → t.peek a = s.peek a) ∧
        (s.kindAt a = .device → Event.devWrite a v ∈ t.env.trace) := by
  cases h : s.kindAt a <;> simp [Stored, h]

theorem StoresOnly.peek_not_ram {a : Word} {ws : List Word} (h : StoresOnly s t ws)
    (n : s.kindAt a ≠ .ram) : t.peek a = s.peek a :=
  let ⟨_, _, _, fixed⟩ := h
  fixed a n

theorem StoresOnly.peek_of_notMem {a : Word} {ws : List Word} (h : StoresOnly s t ws) (n : a ∉ ws)
    (d : a ∉ s.dmaAddrs) : t.peek a = s.peek a :=
  let ⟨_, _, kept, _⟩ := h
  kept a n d

theorem StoresOnly.kindAt {ws : List Word} (h : StoresOnly s t ws) (a : Word) :
    t.kindAt a = s.kindAt a :=
  let ⟨hp, _⟩ := h
  kindAt_of_params_eq hp a

/-- The trace only grows. -/
theorem Transfers.mem_trace {e : Event} {as : List Access} (h : Transfers s t as)
    (m : e ∈ s.env.trace) : e ∈ t.env.trace := by
  obtain ⟨-, ⟨evs, ht, -⟩, -⟩ := h
  rw [ht]
  exact List.mem_append_right evs m

theorem memWrite_device {a : Word} (v : Byte) (h : s.kindAt a = .device) :
    memWrite s a v = s.atCycle.log (.devWrite a v) := by
  simp [memWrite, transferOut, h]

theorem stored_memWrite (a : Word) (v : Byte) : Stored s (memWrite s a v) a v :=
  stored_iff.2 ⟨peek_memWrite_ram v, (storesOnly_memWrite a v).peek_not_ram,
    fun device => by simp [memWrite_device v device]⟩

/-- A store stays in force over later transfers that do not store to its address. -/
theorem Stored.later {a : Word} {v : Byte} {ws : List Word} {as : List Access} (h : Stored s t a v)
    (stores : StoresOnly t u ws) (transfers : Transfers t u as) (n : a ∉ ws) (d : a ∉ t.dmaAddrs) :
    Stored s u a v := by
  obtain ⟨ram, fixed, device⟩ := stored_iff.1 h
  have kept : u.peek a = t.peek a := stores.peek_of_notMem n d
  exact stored_iff.2 ⟨fun k => kept.trans (ram k), fun k => kept.trans (fixed k),
    fun k => transfers.mem_trace (device k)⟩

/-- A store after other stores is a store from the state before them: they change ram bytes only. -/
theorem Stored.earlier {a : Word} {v : Byte} {ws : List Word} (h : Stored t u a v)
    (stores : StoresOnly s t ws) : Stored s u a v := by
  obtain ⟨ram, fixed, device⟩ := stored_iff.1 h
  rw [stores.kindAt] at ram fixed device
  exact stored_iff.2 ⟨ram, fun k => (fixed k).trans (stores.peek_not_ram k), device⟩

theorem stored_memWrite16_low {a : Word} (v : Word) (d : a ∉ s.dmaAddrs) :
    Stored s (memWrite16 s a v) a (loByte v) :=
  (stored_memWrite a (loByte v)).later (storesOnly_memWrite (a + 1) (hiByte v))
    (transfers_memWrite (a + 1) (hiByte v)) (by simp)
    (not_mem_dmaAddrs_memWrite (loByte v) d)

theorem stored_memWrite16_high (a v : Word) : Stored s (memWrite16 s a v) (a + 1) (hiByte v) :=
  (stored_memWrite (a + 1) (hiByte v)).earlier (storesOnly_memWrite a (loByte v))

end Sys2Proof.Machine
end

section
/-! SUPPORT. Frames built update by update: one bus transfer frames an instruction whose row of R70 lists its
stores, and writing a register or pair the instruction may write keeps the frame. -/

namespace Sys2Proof.Machine

variable {s t : State} {i : Instr}

/-- No register, flag, interrupt bit or input changed from s to t; memory, the bus and the free values
may have. -/
structure ProcessorKept (s t : State) : Prop where
  regs : t.regs = s.regs
  sp : t.sp = s.sp
  pc : t.pc = s.pc
  flags : t.flags = s.flags
  intr : t.intr = s.intr
  halted : t.halted = s.halted
  tfd : t.tfd = s.tfd
  pins : t.env.pins = s.env.pins
  samples : t.env.samples = s.env.samples

theorem processorKept_memRead (a : Word) : ProcessorKept s (memRead s a).2 := by
  constructor <;> simp

theorem processorKept_memWrite (a : Word) (v : Byte) : ProcessorKept s (memWrite s a v) := by
  constructor <;> simp

theorem processorKept_memRead16 (a : Word) : ProcessorKept s (memRead16 s a).2 := by
  constructor <;> simp

theorem processorKept_memWrite16 (a v : Word) : ProcessorKept s (memWrite16 s a v) := by
  constructor <;> simp

/-- A change of memory alone is in the frame of an instruction that stores there. -/
theorem ProcessorKept.frame {ws : List Word} (kept : ProcessorKept s t) (stores : StoresOnly s t ws)
    (sub : ∀ a, a ∈ ws → a ∈ storesOf i s) : Frame i s t := by
  obtain ⟨hregs, hsp, hpc, hflags, hintr, hhalted, htfd, hpins, hsamples⟩ := kept
  obtain ⟨hparams, -, hpeek, -⟩ := stores.mono sub
  have hreg (q : Reg) : t.reg q = s.reg q := by simp [State.reg, hregs]
  simpa [Frame, hreg, hsp, hpc, hflags, hintr, hhalted, htfd, hpins, hsamples, hparams]
    using hpeek

theorem frame_refl : Frame i s s :=
  ProcessorKept.frame (ws := []) ⟨rfl, rfl, rfl, rfl, rfl, rfl, rfl, rfl, rfl⟩
    (.of_eq rfl rfl rfl) (by simp)

theorem frame_memRead (a : Word) : Frame i s (memRead s a).2 :=
  (processorKept_memRead a).frame (storesOnly_memRead a) (by simp)

theorem frame_memRead16 (a : Word) : Frame i s (memRead16 s a).2 :=
  (processorKept_memRead16 a).frame (storesOnly_memRead16 a) (by simp)

theorem frame_memWrite {a : Word} (v : Byte) (h : storesOf i s = [a]) :
    Frame i s (memWrite s a v) :=
  (processorKept_memWrite a v).frame (storesOnly_memWrite a v) (by simp [h])

theorem frame_memWrite16 {a : Word} (v : Word) (h : storesOf i s = [a, a + 1]) :
    Frame i s (memWrite16 s a v) :=
  (processorKept_memWrite16 a v).frame (storesOnly_memWrite16 a v) (by simp [h])

theorem Frame.setReg {r : Reg} (h : Frame i s t) (v : Byte) (m : r ∈ (footprint i).regs) :
    Frame i s (t.setReg r v) := by
  obtain ⟨hreg, rest⟩ := h
  refine ⟨fun q n => ?_, rest⟩
  have other : q ≠ r := fun e => n (e ▸ m)
  rw [reg_setReg, if_neg other, hreg q n]

/-- Writing a pair leaves every register outside it alone. -/
theorem reg_setPair_of_notMem_pairRegs {q : Pair} {r : Reg} (v : Word) (n : r ∉ pairRegs q) :
    (s.setPair q v).reg r = s.reg r := by
  refine reg_setPair_of_notMem s q v r ?_ ?_ ?_ <;> rintro rfl <;> simpa [pairRegs] using n

theorem Frame.setPair {q : Pair} (h : Frame i s t) (v : Word)
    (m : ∀ r, r ∈ pairRegs q → r ∈ (footprint i).regs)
    (msp : isSp q = true → (footprint i).sp = true) : Frame i s (t.setPair q v) := by
  obtain ⟨hreg, hsp, rest⟩ := h
  refine ⟨fun r n => ?_, fun n => ?_, ?_⟩
  · rw [reg_setPair_of_notMem_pairRegs v fun h => n (m r h), hreg r n]
  · cases q with
    | bc | de | hl => exact hsp n
    | sp => exact absurd (msp rfl) (by simp [n])
  · cases q <;> exact rest

/-- One of the ten unnamed instructions, from its effect where EXT10 is `admitted` (R101). -/
theorem completesIfAdmitted_of_exec {m : String} {P : State → Prop}
    (e : exec i s = ifAdmitted s m t) (f : Frame i s t) (p : P t) : CompletesIfAdmitted i m s P :=
  ⟨fun admitted => ⟨t, e.trans (ifAdmitted_next.2 ⟨admitted, rfl⟩), f, p⟩,
    fun refused => e.trans (ifAdmitted_refused refused)⟩

end Sys2Proof.Machine
end

section
/-! SUPPORT. The transfer and load instructions (40_transfer.md): each is a chain of register writes and bus
transfers, so its frame is built along the chain and its effect is read off the last write. -/

namespace Sys2Proof.Machine

variable (s : State)

/-! ## MOV -/

theorem encodes_movRR (dst src : Reg) :
    Encodes [opAt20 (opAt53 0x40 dst.code) src.code] (.movRR dst src) := by
  cases dst <;> cases src <;> exact encodes_one rfl rfl

theorem encodes_movRM (dst : Reg) : Encodes [opAt53 0x46 dst.code] (.movRM dst) := by
  cases dst <;> exact encodes_one rfl rfl

theorem encodes_movMR (src : Reg) : Encodes [opAt20 0x70 src.code] (.movMR src) := by
  cases src <;> exact encodes_one rfl rfl

/-- Settles O28: a register write or one bus transfer at HL, and for MOV r,M the write after the read. -/
theorem movCopiesOneByte : Obligations.MovCopiesOneByte := by
  refine fun s => ⟨fun dst src => ⟨encodes_movRR dst src, ?rr⟩,
    fun dst => ⟨encodes_movRM dst, ?rm⟩, fun src => ⟨encodes_movMR src, ?mr⟩⟩
  case rr => exact ⟨_, rfl, frame_refl.setReg _ (by simp), by simp⟩
  case rm => exact ⟨_, rfl, (frame_memRead s.hl).setReg _ (by simp), by simp⟩
  case mr => exact ⟨_, rfl, frame_memWrite _ (by simp), stored_memWrite s.hl _⟩

/-! ## Immediate operands -/

theorem encodes_mviR (dst : Reg) (v : Byte) : Encodes [opAt53 0x06 dst.code, v] (.mviR dst v) := by
  cases dst <;> exact encodes_two rfl rfl

theorem encodes_lxi (q : Pair) : Encodes3 (opAt54 0x01 q.code) (.lxi q) := by
  cases q <;> exact encodes_three rfl fun _ _ => rfl

/-- Settles O29: the operand is written to the register or pair, or stored at HL. -/
theorem immediateLoadsTakeTheOperand : Obligations.ImmediateLoadsTakeTheOperand := by
  refine fun s => ⟨fun dst v => ⟨encodes_mviR dst v, ?mviR⟩,
    fun v => ⟨encodes_two rfl rfl, ?mviM⟩, fun q => ⟨encodes_lxi q, fun v => ?lxi⟩⟩
  case mviR => exact ⟨_, rfl, frame_refl.setReg v (by simp), by simp⟩
  case mviM => exact ⟨_, rfl, frame_memWrite v (by simp), stored_memWrite s.hl v⟩
  case lxi => exact ⟨_, rfl, frame_refl.setPair v (by simp) (by simp), pair_setPair s q v⟩

/-! ## Addressed loads and stores -/

/-- HL takes the byte at a and then the one at a + 1, as the bus answers them in that order (R66). -/
theorem setPair_hl_memRead16 (a : Word) :
    ((memRead16 s a).2.setPair .hl (memRead16 s a).1).regs.l = (memRead s a).1 ∧
      ((memRead16 s a).2.setPair .hl (memRead16 s a).1).regs.h =
        (memRead (memRead s a).2 (a + 1)).1 :=
  ⟨loByte_mkWord _ _, hiByte_mkWord _ _⟩

/-- Writing HL to memory stores L and then H (R66). -/
theorem stored_memWrite16_hl (a : Word) :
    (a ∉ s.dmaAddrs → Stored s (memWrite16 s a s.hl) a s.regs.l) ∧
      Stored s (memWrite16 s a s.hl) (a + 1) s.regs.h := by
  have low : loByte s.hl = s.regs.l := loByte_mkWord s.regs.h s.regs.l
  have high : hiByte s.hl = s.regs.h := hiByte_mkWord s.regs.h s.regs.l
  exact ⟨fun d => low ▸ stored_memWrite16_low s.hl d, high ▸ stored_memWrite16_high a s.hl⟩

theorem lda_completes (a : Word) :
    Completes (.lda a) s fun t => t.regs.a = (memRead s a).1 :=
  ⟨_, rfl, (frame_memRead a).setReg _ (by simp), rfl⟩

theorem sta_completes (a : Word) : Completes (.sta a) s fun t => Stored s t a s.regs.a :=
  ⟨_, rfl, frame_memWrite _ (by simp), stored_memWrite a _⟩

theorem lhld_completes (a : Word) :
    Completes (.lhld a) s fun t =>
      t.regs.l = (memRead s a).1 ∧ t.regs.h = (memRead (memRead s a).2 (a + 1)).1 :=
  ⟨_, rfl, (frame_memRead16 a).setPair _ (by simp [pairRegs]) (by simp [isSp]),
    setPair_hl_memRead16 s a⟩

theorem shld_completes (a : Word) :
    Completes (.shld a) s fun t =>
      (a ∉ s.dmaAddrs → Stored s t a s.regs.l) ∧ Stored s t (a + 1) s.regs.h :=
  ⟨_, rfl, frame_memWrite16 _ (by simp), stored_memWrite16_hl s a⟩

theorem ldax_completes (q : Pair) :
    Completes (.ldax q) s fun t => t.regs.a = (memRead s (s.pair q)).1 :=
  ⟨_, rfl, (frame_memRead (s.pair q)).setReg _ (by simp), rfl⟩

theorem stax_completes (q : Pair) :
    Completes (.stax q) s fun t => Stored s t (s.pair q) s.regs.a :=
  ⟨_, rfl, frame_memWrite _ (by simp), stored_memWrite (s.pair q) _⟩

theorem lhlx_completesIfAdmitted :
    CompletesIfAdmitted .lhlx "LHLX" s fun t =>
      t.regs.l = (memRead s s.de).1 ∧ t.regs.h = (memRead (memRead s s.de).2 (s.de + 1)).1 :=
  completesIfAdmitted_of_exec rfl
    ((frame_memRead16 s.de).setPair _ (by simp [pairRegs]) (by simp [isSp]))
    (setPair_hl_memRead16 s s.de)

theorem shlx_completesIfAdmitted :
    CompletesIfAdmitted .shlx "SHLX" s fun t =>
      (s.de ∉ s.dmaAddrs → Stored s t s.de s.regs.l) ∧ Stored s t (s.de + 1) s.regs.h :=
  completesIfAdmitted_of_exec rfl (frame_memWrite16 _ (by simp)) (stored_memWrite16_hl s s.de)

/-- Settles O30: one byte or one word over the bus, at the operand's address or at a pair's. -/
theorem addressedLoadsAndStores : Obligations.AddressedLoadsAndStores := by
  refine ⟨⟨?lda, ?sta, ?lhld, ?shld, ?ldaxB, ?ldaxD, ?staxB, ?staxD, ?lhlx, ?shlx⟩, fun s a =>
    ⟨lda_completes s a, sta_completes s a, lhld_completes s a, shld_completes s a,
      fun q _ => ⟨ldax_completes s q, stax_completes s q⟩, lhlx_completesIfAdmitted s,
      shlx_completesIfAdmitted s⟩⟩
  case lda | sta | lhld | shld => exact encodes_three rfl fun _ _ => rfl
  case ldaxB | ldaxD | staxB | staxD | lhlx | shlx => exact encodes_one rfl rfl

/-! ## Exchange and address formation -/

/-- XCHG writes HL first and DE second, from the old values of both (R132). -/
theorem xchg_completes : Completes .xchg s fun t => t.hl = s.de ∧ t.de = s.hl := by
  have frame : Frame .xchg s ((s.setPair .hl s.de).setPair .de s.hl) :=
    (frame_refl.setPair _ (by simp [pairRegs]) (by simp [isSp])).setPair _
      (by simp [pairRegs]) (by simp [isSp])
  exact ⟨_, rfl, frame, pair_setPair s .hl s.de, pair_setPair (s.setPair .hl s.de) .de s.hl⟩

theorem sphl_completes : Completes .sphl s fun t => t.sp = s.hl :=
  ⟨_, rfl, frame_refl.setPair (q := .sp) s.hl (by simp [pairRegs]) (by simp), rfl⟩

theorem toNat_add_zext16 (w : Word) (v : Byte) :
    (w + zext16 v).toNat = (w.toNat + v.toNat) % 65536 := by
  rw [BitVec.toNat_add, zext16, BitVec.toNat_setWidth_of_le (by decide)]

/-- DE holds the address formed, and no flag is written (R133, R134). -/
theorem setPair_de_add_zext16 (w : Word) (v : Byte) :
    (s.setPair .de (w + zext16 v)).de.toNat = (w.toNat + v.toNat) % 65536 ∧
      (s.setPair .de (w + zext16 v)).flags = s.flags := by
  have formed : (s.setPair .de (w + zext16 v)).de = w + zext16 v := pair_setPair s .de _
  exact ⟨by rw [formed, toNat_add_zext16], rfl⟩

theorem ldhi_completesIfAdmitted (v : Byte) :
    CompletesIfAdmitted (.ldhi v) "LDHI" s fun t =>
      t.de.toNat = (s.hl.toNat + v.toNat) % 65536 ∧ t.flags = s.flags :=
  completesIfAdmitted_of_exec rfl (frame_refl.setPair _ (by simp [pairRegs]) (by simp [isSp]))
    (setPair_de_add_zext16 s s.hl v)

theorem ldsi_completesIfAdmitted (v : Byte) :
    CompletesIfAdmitted (.ldsi v) "LDSI" s fun t =>
      t.de.toNat = (s.sp.toNat + v.toNat) % 65536 ∧ t.flags = s.flags :=
  completesIfAdmitted_of_exec rfl (frame_refl.setPair _ (by simp [pairRegs]) (by simp [isSp]))
    (setPair_de_add_zext16 s s.sp v)

/-- Settles O31: each writes pairs alone, from values of the state before. -/
theorem exchangeAndAddressFormation : Obligations.ExchangeAndAddressFormation :=
  ⟨⟨encodes_one rfl rfl, encodes_one rfl rfl, fun _ => encodes_two rfl rfl,
      fun _ => encodes_two rfl rfl⟩,
    fun s => ⟨xchg_completes s, ldhi_completesIfAdmitted s, ldsi_completesIfAdmitted s,
      sphl_completes s⟩⟩

end Sys2Proof.Machine
end

section
/-! SUPPORT. The stack primitives (41_stack.md): a push is two stores below SP, high byte first, and a pop is one
two-byte read at SP (R140, R141). -/

namespace Sys2Proof.Machine

variable {s t : State}

/-! ## Push -/

/-- Whether a byte was stored does not depend on where SP is left. -/
theorem stored_withSp {a : Word} {v : Byte} (w : Word) :
    Stored s { t with sp := w } a v ↔ Stored s t a v := Iff.rfl

theorem stored_push16_high (v : Word) (d : s.sp - 1 ∉ s.dmaAddrs) :
    Stored s (push16 s v) (s.sp - 1) (hiByte v) :=
  (stored_withSp _).2 <|
    (stored_memWrite (s.sp - 1) (hiByte v)).later (storesOnly_memWrite (s.sp - 2) (loByte v))
      (transfers_memWrite (s.sp - 2) (loByte v)) (by simp)
      (not_mem_dmaAddrs_memWrite (hiByte v) d)

/-- The low byte is the last one written, so no hold can fall after it within the push. -/
theorem stored_push16_low (v : Word) : Stored s (push16 s v) (s.sp - 2) (loByte v) :=
  (stored_withSp _).2 <|
    (stored_memWrite (s.sp - 2) (loByte v)).earlier (storesOnly_memWrite (s.sp - 1) (hiByte v))

/-- What a push does, for every kind of stack memory (R140). -/
theorem pushed_push16 (s : State) (v : Word) : Pushed s (push16 s v) v :=
  ⟨push16_sp s v, stored_push16_high v, stored_push16_low v,
    fun _ above below => (storesOnly_push16 v).peek_of_notMem
      (by rw [List.mem_pair]; exact not_or.2 ⟨above, below⟩)⟩

/-- Where no hold can fall, a write to a device address is its event and nothing else. -/
theorem memWrite_device_quiet {a : Word} (v : Byte) (h : s.kindAt a = .device)
    (q : s.params.dmaPresent = false ∨ s.env.holds = []) :
    memWrite s a v = s.log (.devWrite a v) := by
  have undisturbed : s.atCycle = s := q.elim (atCycle_absent s) (atCycle_nil s)
  rw [memWrite_device v h, undisturbed]

/-- On a stack of device addresses the trace, whose newest event stands first, shows the high byte written
before the low byte (R140). -/
theorem push16_trace_device (v : Word) (h1 : s.kindAt (s.sp - 1) = .device)
    (h2 : s.kindAt (s.sp - 2) = .device) (q : s.params.dmaPresent = false ∨ s.env.holds = []) :
    (push16 s v).env.trace =
      .devWrite (s.sp - 2) (loByte v) :: .devWrite (s.sp - 1) (hiByte v) :: s.env.trace := by
  have first : memWrite s (s.sp - 1) (hiByte v) = s.log (.devWrite (s.sp - 1) (hiByte v)) :=
    memWrite_device_quiet _ h1 q
  have second := memWrite_device_quiet (s := s.log (.devWrite (s.sp - 1) (hiByte v)))
    (loByte v) h2 q
  simp only [push16, first, second, log_env_trace]

/-- SP goes down by two modulo 65,536. -/
theorem push16_sp_toNat (v : Word) : (push16 s v).sp.toNat = (s.sp.toNat + 65534) % 65536 := by
  rw [push16_sp]; bv_omega

/-! ## Pop -/

/-- SP goes up by two modulo 65,536. -/
theorem pop16_sp_toNat : (pop16 s).2.sp.toNat = (s.sp.toNat + 2) % 65536 := by
  rw [pop16_sp, BitVec.toNat_add]; rfl

/-- A pop changes no byte that the other master does not write (R141). -/
theorem peek_pop16 {a : Word} (d : a ∉ s.dmaAddrs) : (pop16 s).2.peek a = s.peek a :=
  storesOnly_pop16.peek_of_notMem List.not_mem_nil d

/-- Settles O27: a push is two stores and a pop one two-byte read, by definition; what they leave in memory,
on the trace and in SP follows from the rules of one store and one read. -/
theorem stackPrimitivesPushAndPop : Obligations.StackPrimitivesPushAndPop := fun s v =>
  ⟨pushed_push16 s v, rfl, push16_trace_device v, push16_sp_toNat v, rfl, pop16_quiet,
    pop16_sp_toNat, fun _ => peek_pop16⟩

end Sys2Proof.Machine
end

section
/-! SUPPORT. Jumps and calls (42_branch_call.md): each is the jump or the call under its test, so what one does is
proved once for every test, and the instructions differ by their bytes and the flag they test (R150 to R172). -/

namespace Sys2Proof.Machine

variable {s t : State} {i : Instr}

/-! ## Conditions -/

/-- Settles O35: each condition is one flag or its complement. -/
theorem conditionsTestOneFlag : Obligations.ConditionsTestOneFlag := by
  intro f
  have clear (b : Bool) : (!b) = true ↔ b = false := Iff.of_eq (Bool.not_eq_true' b)
  exact ⟨clear f.z, .rfl, clear f.cy, .rfl, clear f.p, .rfl, clear f.s, .rfl⟩

/-! ## Jumps -/

theorem Frame.setPc (h : Frame i s t) (v : Word) (m : (footprint i).pc = true) :
    Frame i s (t.setPc v) := by
  obtain ⟨hreg, hsp, -, rest⟩ := h
  exact ⟨hreg, hsp, fun n => absurd m (by simp [n]), rest⟩

theorem frame_jumpIf (test : Bool) (a : Word) (m : (footprint i).pc = true) :
    Frame i s (jumpIf test a s) := by
  cases test with
  | true => exact frame_refl.setPc a m
  | false => exact frame_refl

/-- What every three-byte jump does, from its bytes, its effect and its row of R25. -/
theorem jumpsWhen_of_exec {op : Byte} {mk : Word → Instr} {test : State → Bool}
    (bytes : Encodes3 op mk) (e : ∀ a s, exec (mk a) s = .next (jumpIf (test s) a s))
    (m : ∀ a, (footprint (mk a)).pc = true) : JumpsWhen op mk test :=
  ⟨bytes, fun a s => ⟨_, e a s, frame_jumpIf _ a (m a), jumpIf_pc s _ a⟩⟩

theorem jnk_completesIfAdmitted (a : Word) (s : State) :
    CompletesIfAdmitted (.jnk a) "JNK" s fun t => t.pc = if !s.flags.k then a else s.pc :=
  completesIfAdmitted_of_exec rfl (frame_jumpIf _ a rfl) (jumpIf_pc s _ a)

theorem jk_completesIfAdmitted (a : Word) (s : State) :
    CompletesIfAdmitted (.jk a) "JK" s fun t => t.pc = if s.flags.k then a else s.pc :=
  completesIfAdmitted_of_exec rfl (frame_jumpIf _ a rfl) (jumpIf_pc s _ a)

theorem pchl_completes (s : State) : Completes .pchl s fun t => t.pc = s.hl :=
  ⟨_, rfl, frame_refl.setPc s.hl rfl, setPc_pc s s.hl⟩

/-- Settles O36: JMP is the jump whose test always holds, the eight test a condition, and JNK and JK test K where
EXT10 lets them. -/
theorem jumpsFollowTheirTest : Obligations.JumpsFollowTheirTest := by
  refine ⟨?jmp, ?jnz, ?jz, ?jnc, ?jc, ?jpo, ?jpe, ?jp, ?jm, ⟨?jnk, jnk_completesIfAdmitted⟩,
    ⟨?jk, jk_completesIfAdmitted⟩, encodes_one rfl rfl, pchl_completes⟩
  case jmp | jnz | jz | jnc | jc | jpo | jpe | jp | jm =>
    exact jumpsWhen_of_exec (encodes_three rfl fun _ _ => rfl) (fun _ _ => rfl) fun _ => rfl
  case jnk | jk => exact encodes_three rfl fun _ _ => rfl

/-! ## Calls -/

theorem ProcessorKept.trans {u : State} (h : ProcessorKept s t) (g : ProcessorKept t u) :
    ProcessorKept s u :=
  ⟨g.regs.trans h.regs, g.sp.trans h.sp, g.pc.trans h.pc, g.flags.trans h.flags,
    g.intr.trans h.intr, g.halted.trans h.halted, g.tfd.trans h.tfd, g.pins.trans h.pins,
    g.samples.trans h.samples⟩

/-- A push is in the frame of an instruction that writes SP and stores below it. -/
theorem frame_push16 (v : Word) (h : storesOf i s = [s.sp - 1, s.sp - 2])
    (m : (footprint i).sp = true) : Frame i s (push16 s v) := by
  have kept := (processorKept_memWrite (s := s) (s.sp - 1) (hiByte v)).trans
    (processorKept_memWrite (s.sp - 2) (loByte v))
  have stores := (storesOnly_memWrite (s := s) (s.sp - 1) (hiByte v)).trans
    (storesOnly_memWrite (s.sp - 2) (loByte v))
  have framed := kept.frame (i := i) stores fun _ n => h ▸ n
  exact framed.setPair (q := .sp) (s.sp - 2) (by simp [pairRegs]) fun _ => m

theorem frame_callTo (a : Word) (h : storesOf i s = [s.sp - 1, s.sp - 2])
    (msp : (footprint i).sp = true) (mpc : (footprint i).pc = true) : Frame i s (callTo a s) :=
  (frame_push16 s.pc h msp).setPc a mpc

/-- Where execution goes on does not change what was pushed. -/
theorem pushed_callTo (a : Word) (s : State) : Pushed s (callTo a s) s.pc := pushed_push16 s s.pc

/-- What every three-byte call does, from its bytes, its effect, its row of R70 and its row of R25. -/
theorem callsWhen_of_exec {op : Byte} {mk : Word → Instr} {test : State → Bool}
    (bytes : Encodes3 op mk) (e : ∀ a s, exec (mk a) s = .next (callIf (test s) a s))
    (row : ∀ a s, accesses (mk a) s = if test s then pushes s else [])
    (msp : ∀ a, (footprint (mk a)).sp = true) (mpc : ∀ a, (footprint (mk a)).pc = true) :
    CallsWhen op mk test := by
  refine ⟨bytes, fun a s => ?_⟩
  cases taken : test s with
  | true =>
    have called : exec (mk a) s = .next (callTo a s) := by rw [e, taken]; rfl
    have stores : storesOf (mk a) s = [s.sp - 1, s.sp - 2] := by rw [storesOf, row, taken]; rfl
    exact ⟨_, called, frame_callTo a stores (msp a) (mpc a),
      fun _ => ⟨pushed_callTo a s, callTo_pc s a⟩, nofun⟩
  | false =>
    have skipped : exec (mk a) s = .next s := by rw [e, taken]; rfl
    exact ⟨s, skipped, frame_refl, nofun, fun _ => rfl⟩

/-- Settles O37: CALL is the call whose test always holds, the eight test a condition. -/
theorem callsFollowTheirTest : Obligations.CallsFollowTheirTest := by
  refine ⟨?call, ?cnz, ?cz, ?cnc, ?cc, ?cpo, ?cpe, ?cp, ?cm⟩
  case call | cnz | cz | cnc | cc | cpo | cpe | cp | cm =>
    exact callsWhen_of_exec (encodes_three rfl fun _ _ => rfl) (fun _ _ => rfl) (fun _ _ => rfl)
      (fun _ => rfl) fun _ => rfl

end Sys2Proof.Machine
end

section
/-! SUPPORT. Returns and restarts (43_return_restart.md): a return is the pop of PC under its test, so what one
does is proved once for every test; a restart is a call to a fixed address (R180 to R191). -/

namespace Sys2Proof.Machine

variable {s : State} {i : Instr}

/-! ## Returns -/

/-- A pop is in the frame of every instruction that writes SP: it stores nothing. -/
theorem frame_pop16 (m : (footprint i).sp = true) : Frame i s (pop16 s).2 :=
  (frame_memRead16 s.sp).setPair (q := .sp) (s.sp + 2) (by simp [pairRegs]) fun _ => m

theorem frame_returnFrom (msp : (footprint i).sp = true) (mpc : (footprint i).pc = true) :
    Frame i s (returnFrom s) :=
  (frame_pop16 msp).setPc _ mpc

/-- Execution goes on at the word the two bus reads of the pop answer (R141, R180). -/
theorem returnFrom_pc (s : State) : (returnFrom s).pc = (memRead16 s s.sp).1 := rfl

/-- What every return does, from its byte, its effect and its row of R25. -/
theorem returnsWhen_of_exec {op : Byte} {test : State → Bool} (bytes : Encodes [op] i)
    (e : ∀ s, exec i s = .next (returnIf (test s) s)) (msp : (footprint i).sp = true)
    (mpc : (footprint i).pc = true) : ReturnsWhen op i test := by
  refine ⟨bytes, fun s => ?_⟩
  cases taken : test s with
  | true =>
    have returned : exec i s = .next (returnFrom s) := by rw [e, taken]; rfl
    exact ⟨_, returned, frame_returnFrom msp mpc,
      fun _ => ⟨returnFrom_sp s, returnFrom_pc s, memRead16_quiet⟩, nofun⟩
  | false =>
    have skipped : exec i s = .next s := by rw [e, taken]; rfl
    exact ⟨s, skipped, frame_refl, nofun, fun _ => rfl⟩

/-- Settles O38: RET is the return whose test always holds, the eight test a condition. -/
theorem returnsFollowTheirTest : Obligations.ReturnsFollowTheirTest := by
  refine ⟨?ret, ?rnz, ?rz, ?rnc, ?rc, ?rpo, ?rpe, ?rp, ?rm⟩
  case ret | rnz | rz | rnc | rc | rpo | rpe | rp | rm =>
    exact returnsWhen_of_exec (encodes_one rfl rfl) (fun _ => rfl) rfl rfl

/-! ## Restarts -/

theorem encodes_rst (n : BitVec 3) : Encodes [opAt53 0xC7 (n.setWidth 8)] (.rst n) := by
  have oneByte : ∀ n : BitVec 3, lengthOf (opAt53 0xC7 (n.setWidth 8)) = 1 := by decide
  have number : ∀ n : BitVec 3, decodeBytes (opAt53 0xC7 (n.setWidth 8)) 0 0 = .rst n := by decide
  exact encodes_one (oneByte n) (number n)

/-- The restart addresses 0000H to 0038H fit the word, so the product does not wrap. -/
theorem rstTarget_toNat (n : BitVec 3) : (rstTarget n).toNat = n.toNat * 8 := by
  have := n.isLt
  simp only [rstTarget]
  bv_omega

theorem rst_completes (n : BitVec 3) (s : State) :
    Completes (.rst n) s fun t => Pushed s t s.pc ∧ t.pc.toNat = n.toNat * 8 :=
  ⟨_, rfl, frame_callTo _ rfl rfl rfl, pushed_callTo _ s, rstTarget_toNat n⟩

/-- RSTV is the call to 0040H under V: without overflow its row of R70 is empty and the state stays (R191). -/
theorem rstv_completesIfAdmitted (s : State) :
    CompletesIfAdmitted .rstv "RSTV" s fun t =>
      (s.flags.v = true → Pushed s t s.pc ∧ t.pc = 0x0040) ∧ (s.flags.v = false → t = s) := by
  refine completesIfAdmitted_of_exec (t := callIf s.flags.v 0x0040 s) rfl ?frame ⟨?call, ?skip⟩
  case frame =>
    cases overflow : s.flags.v with
    | true =>
      have stores : storesOf .rstv s = [s.sp - 1, s.sp - 2] := by simp [overflow]
      exact frame_callTo _ stores rfl rfl
    | false => exact frame_refl
  case call =>
    intro overflow
    rw [overflow]
    exact ⟨pushed_callTo 0x0040 s, callTo_pc s 0x0040⟩
  case skip =>
    intro clear
    rw [clear]
    rfl

/-- Settles O39: RST n is the call to 8 n, and RSTV the call to 0040H under V where EXT10 lets it. -/
theorem restartsCallFixedAddresses : Obligations.RestartsCallFixedAddresses := fun s =>
  ⟨fun n => ⟨encodes_rst n, rst_completes n s⟩, encodes_one rfl rfl, rstv_completesIfAdmitted s⟩

end Sys2Proof.Machine
end

section
/-! SUPPORT. Input and output (44_io.md): one port transfer after the hold that may precede it; what it leaves
alone, what it adds to the trace, and what comes back (R63, R200, R201). -/

namespace Sys2Proof.Machine

variable {s : State} {i : Instr}

/-! ## Input -/

theorem processorKept_ioRead (p : Byte) : ProcessorKept s (ioRead s p).2 := by
  constructor <;> simp

/-- An input stores nothing: only the hold before it can change memory. -/
theorem storesOnly_ioRead (p : Byte) : StoresOnly s (ioRead s p).2 [] :=
  storesOnly_atCycle.trans (.of_eq (by simp [ioRead]) (by simp [ioRead]) (by simp [ioRead]))

theorem frame_ioRead (p : Byte) : Frame i s (ioRead s p).2 :=
  (processorKept_ioRead p).frame (storesOnly_ioRead p) (by simp)

/-- The event carries the byte that IN loads, and stands after that of the hold before the transfer (R63). -/
theorem ioRead_trace (p : Byte) :
    (ioRead s p).2.env.trace = .ioRead p (ioRead s p).1 :: s.atCycle.env.trace := by
  simp [ioRead]

/-- A script that goes on answers its next byte. -/
theorem busAnswer_of_busIn_cons {v : Byte} {rest : List Byte} (h : s.env.busIn = v :: rest) :
    busAnswer s = (v, { s with env := { s.env with busIn := rest } }) := by
  simp [busAnswer, h]

/-- A script that has ended leaves the answer to the free values. -/
theorem busAnswer_of_busIn_nil (h : s.env.busIn = []) : busAnswer s = drawByte s := by
  simp [busAnswer, h]

/-- The hold before the transfer takes nothing from the script, so the port answers its next byte. -/
theorem ioRead_of_busIn_cons {v : Byte} {rest : List Byte} (p : Byte)
    (h : s.env.busIn = v :: rest) :
    (ioRead s p).1 = v ∧ (ioRead s p).2.env.busIn = rest := by
  have answer := busAnswer_of_busIn_cons ((atCycle_env_busIn s).trans h)
  simp [ioRead, answer]

/-- The hold before the transfer draws no free value, so the port answers the one next at the start. -/
theorem ioRead_of_busIn_nil (p : Byte) (h : s.env.busIn = []) :
    (ioRead s p).1 = Config.freeByte s.env.fresh := by
  have answer := busAnswer_of_busIn_nil ((atCycle_env_busIn s).trans h)
  simp [ioRead, answer, drawByte]

theorem inPort_completes (p : Byte) (s : State) :
    Completes (.inPort p) s fun t =>
      t.env.trace = .ioRead p t.regs.a :: s.atCycle.env.trace ∧
        (∀ v rest, s.env.busIn = v :: rest → t.regs.a = v ∧ t.env.busIn = rest) ∧
        (s.env.busIn = [] → t.regs.a = Config.freeByte s.env.fresh) :=
  ⟨_, rfl, (frame_ioRead p).setReg _ (by simp), ioRead_trace p,
    fun _ _ => ioRead_of_busIn_cons p, ioRead_of_busIn_nil p⟩

/-! ## Output -/

theorem processorKept_ioWrite (p v : Byte) : ProcessorKept s (ioWrite s p v) := by
  constructor <;> simp

/-- An output stores nothing: only the hold before it can change memory. -/
theorem storesOnly_ioWrite (p v : Byte) : StoresOnly s (ioWrite s p v) [] :=
  storesOnly_atCycle.trans (.of_eq (log_params _ _) (log_mem _ _) (log_env_holds _ _))

theorem frame_ioWrite (p v : Byte) : Frame i s (ioWrite s p v) :=
  (processorKept_ioWrite p v).frame (storesOnly_ioWrite p v) (by simp)

theorem outPort_completes (p : Byte) (s : State) :
    Completes (.outPort p) s fun t =>
      t.env.trace = .ioWrite p s.regs.a :: s.atCycle.env.trace ∧ t.mem = s.atCycle.mem ∧
        t.regs = s.regs :=
  ⟨_, rfl, frame_ioWrite p s.regs.a, log_env_trace _ _, log_mem _ _, ioWrite_regs s p s.regs.a⟩

/-- Settles O40: IN is one port read followed by the write of A, OUT one port write and nothing else. -/
theorem portInstructionsMoveA : Obligations.PortInstructionsMoveA :=
  ⟨fun _ => encodes_two rfl rfl, fun _ => encodes_two rfl rfl,
    fun s p => ⟨inPort_completes p s, outPort_completes p s⟩⟩

end Sys2Proof.Machine
end

section
/-! SUPPORT. The 8-bit adder and subtracter (45_arith_logic.md section 1): the sum is exact arithmetic, and the
subtracter is the adder on the one's complement, so each fact about a difference is the one about a sum (R210,
R211). -/

namespace Sys2Proof.Machine

variable (a b : Byte) (cin bin : Bool)

/-! ## The adder -/

/-- The signed value of a byte counts bit 7 as minus 128. -/
theorem byte_toInt (v : Byte) : v.toInt = if 128 ≤ v.toNat then (v.toNat : Int) - 256 else v.toNat := by
  have cond := BitVec.toInt_eq_toNat_cond v
  omega

theorem add8_res_toNat : (add8 a b cin).res.toNat = (a.toNat + b.toNat + cin.toNat) % 256 :=
  BitVec.toNat_ofNat _ 8

theorem add8_cy_iff : (add8 a b cin).cy = true ↔ 256 ≤ a.toNat + b.toNat + cin.toNat :=
  decide_eq_true_iff

theorem add8_ac_iff :
    (add8 a b cin).ac = true ↔ 16 ≤ a.toNat % 16 + b.toNat % 16 + cin.toNat :=
  decide_eq_true_iff

/-- V is set when just one of the carries into and out of bit 7 is (R210). -/
theorem add8_v_iff :
    (add8 a b cin).v = true ↔
      ¬(127 < a.toNat % 128 + b.toNat % 128 + cin.toNat ↔ 256 ≤ a.toNat + b.toNat + cin.toNat) := by
  have carries : (add8 a b cin).v =
    (decide (127 < a.toNat % 128 + b.toNat % 128 + cin.toNat) ^^ (add8 a b cin).cy) := rfl
  rw [carries, Bool.xor_iff_ne, ne_eq, Bool.eq_iff_iff, decide_eq_true_iff, add8_cy_iff]

theorem add8_v_iff_signs :
    (add8 a b cin).v = true ↔
      a.getLsbD 7 = b.getLsbD 7 ∧ (add8 a b cin).res.getLsbD 7 ≠ a.getLsbD 7 := by
  have carry := cin.toNat_le
  rw [add8_v_iff, ne_eq, Bool.eq_iff_iff, Bool.eq_iff_iff (b := a.getLsbD 7), getLsbD_seven_iff,
    getLsbD_seven_iff, getLsbD_seven_iff, add8_res_toNat]
  omega

/-- V says that the exact signed sum does not fit eight bits (R35). -/
theorem add8_v_iff_unfit :
    (add8 a b cin).v = true ↔
      a.toInt + b.toInt + cin.toNat < -128 ∨ 127 < a.toInt + b.toInt + cin.toNat := by
  have carry := cin.toNat_le
  rw [add8_v_iff, byte_toInt a, byte_toInt b]
  omega

/-- V xor the sign of the result is the sign of the exact sum (R36). -/
theorem add8_k_iff_neg :
    ((add8 a b cin).v ^^ (add8 a b cin).res.getLsbD 7) = true ↔ a.toInt + b.toInt + cin.toNat < 0 := by
  have carry := cin.toNat_le
  rw [Bool.xor_iff_ne, ne_eq, Bool.eq_iff_iff, add8_v_iff, getLsbD_seven_iff, add8_res_toNat,
    byte_toInt a, byte_toInt b]
  omega

/-! ## The subtracter -/

theorem complement_toNat : (~~~b).toNat = 255 - b.toNat := BitVec.toNat_not

theorem not_toNat : (!bin).toNat = 1 - bin.toNat := by cases bin <;> rfl

/-- Adding the complement without the borrow is subtracting, in signed arithmetic (R211). -/
theorem add_complement_toInt :
    a.toInt + (~~~b).toInt + (!bin).toNat = a.toInt - b.toInt - bin.toNat := by
  have borrow := bin.toNat_le
  rw [byte_toInt (~~~b), byte_toInt b, complement_toNat, not_toNat]
  omega

theorem sub8_res_toNat :
    ((sub8 a b bin).res.toNat : Int) = ((a.toNat : Int) - b.toNat - bin.toNat) % 256 := by
  have sum : (sub8 a b bin).res.toNat = _ := add8_res_toNat a (~~~b) (!bin)
  have borrow := bin.toNat_le
  rw [sum, complement_toNat, not_toNat]
  omega

theorem sub8_cy_iff : (sub8 a b bin).cy = true ↔ a.toNat < b.toNat + bin.toNat := by
  have inverted : (sub8 a b bin).cy = !(add8 a (~~~b) (!bin)).cy := rfl
  have borrow := bin.toNat_le
  rw [inverted, Bool.not_eq_true', ← Bool.not_eq_true, add8_cy_iff, complement_toNat, not_toNat]
  omega

theorem sub8_ac_iff :
    (sub8 a b bin).ac = true ↔ b.toNat % 16 + bin.toNat ≤ a.toNat % 16 := by
  have borrow := bin.toNat_le
  refine (add8_ac_iff a (~~~b) (!bin)).trans ?_
  rw [complement_toNat, not_toNat]
  omega

theorem sub8_v_iff_signs :
    (sub8 a b bin).v = true ↔
      a.getLsbD 7 ≠ b.getLsbD 7 ∧ (sub8 a b bin).res.getLsbD 7 ≠ a.getLsbD 7 := by
  have flipped : (~~~b).getLsbD 7 = !b.getLsbD 7 := by simp
  have signs := add8_v_iff_signs a (~~~b) (!bin)
  rw [flipped, Bool.eq_not] at signs
  exact signs

/-- V says that the exact signed difference does not fit eight bits (R35). -/
theorem sub8_v_iff_unfit :
    (sub8 a b bin).v = true ↔
      a.toInt - b.toInt - bin.toNat < -128 ∨ 127 < a.toInt - b.toInt - bin.toNat := by
  rw [← add_complement_toInt]
  exact add8_v_iff_unfit a (~~~b) (!bin)

/-- V xor the sign of the result is the sign of the exact difference (R36). -/
theorem sub8_k_iff_neg :
    ((sub8 a b bin).v ^^ (sub8 a b bin).res.getLsbD 7) = true ↔
      a.toInt - b.toInt - bin.toNat < 0 := by
  rw [← add_complement_toInt]
  exact add8_k_iff_neg a (~~~b) (!bin)

/-- Without a borrow in, the result is the difference of the bytes. -/
theorem sub8_res : (sub8 a b false).res = a - b := by
  have difference := sub8_res_toNat a b false
  rw [Bool.toNat_false] at difference
  bv_omega

/-! ## The flags written from the outputs -/

/-- With VK_EXACT, V and K are the values R37 gives (R39). -/
theorem setVK_flags_of_exact (s : State) (v k : Bool) (h : s.params.vkExact = true) :
    (s.setVK v k).flags.v = v ∧ (s.setVK v k).flags.k = k := by
  rw [setVK_exact s h]
  exact ⟨rfl, rfl⟩

/-- The flags of an addition, a subtraction or a comparison are those of the adder's outputs (R210, R211). -/
theorem flagsFrom_arithFlags (s : State) (o : AluOut) (cy : Bool) : FlagsFrom s o cy :=
  ⟨setVK_flags_s _ _ _, setVK_flags_z _ _ _, setVK_flags_p _ _ _, setVK_flags_ac _ _ _,
    setVK_flags_cy _ _ _,
    setVK_flags_of_exact (((s.setSzp o.res).setAc o.ac).setCy cy) _ _⟩

/-- Settles O41: the adder's outputs by definition, and V and its sign from the exact signed sum. -/
theorem adderComputesTheSum : Obligations.AdderComputesTheSum := fun a b cin =>
  ⟨add8_res_toNat a b cin, add8_cy_iff a b cin, add8_ac_iff a b cin, rfl, add8_v_iff_signs a b cin,
    add8_v_iff_unfit a b cin, add8_k_iff_neg a b cin, fun s => flagsFrom_arithFlags s _⟩

/-- Settles O42: each fact about the difference is the adder's about the complement. -/
theorem subtracterComputesTheDifference : Obligations.SubtracterComputesTheDifference := by
  refine fun a b bin => ⟨rfl, sub8_res_toNat a b bin, sub8_cy_iff a b bin, sub8_ac_iff a b bin,
    sub8_v_iff_signs a b bin, ?less, sub8_cy_iff a b false, ?equal, fun s => flagsFrom_arithFlags s _⟩
  case less =>
    rw [sub8_k_iff_neg, Bool.toNat_false]
    omega
  case equal =>
    rw [sub8_res]
    exact sub_eq_zero

end Sys2Proof.Machine
end

section
/-! SUPPORT. Updates of flags alone: what leaves everything but the flags and the count of free values as it was
is in the frame of the instructions that may write those flags (R37, R39). -/

namespace Sys2Proof.Machine

variable {s t u : State} {i : Instr}

/-! ## Flags and free values alone -/

/-- From s to t flags were written and free values drawn, and nothing else changed. -/
def FlagsOnly (s t : State) : Prop :=
  ∃ flags fresh, s.env.fresh ≤ fresh ∧
    t = { s with flags := flags, env := { s.env with fresh := fresh } }

theorem FlagsOnly.trans (h : FlagsOnly s t) (g : FlagsOnly t u) : FlagsOnly s u := by
  obtain ⟨_, _, le, rfl⟩ := h
  obtain ⟨flags, fresh, le', rfl⟩ := g
  exact ⟨flags, fresh, le.trans le', rfl⟩

theorem FlagsOnly.fresh_le (h : FlagsOnly s t) : s.env.fresh ≤ t.env.fresh := by
  obtain ⟨_, _, le, rfl⟩ := h
  exact le

theorem FlagsOnly.params (h : FlagsOnly s t) : t.params = s.params := by
  obtain ⟨_, _, _, rfl⟩ := h
  rfl

theorem flagsOnly_set (s : State) (flags : Flags) : FlagsOnly s { s with flags := flags } :=
  ⟨flags, s.env.fresh, le_rfl, rfl⟩

theorem flagsOnly_drawBit (s : State) : FlagsOnly s (drawBit s).2 :=
  ⟨s.flags, s.env.fresh + 1, Nat.le_succ _, rfl⟩

theorem flagsOnly_openBit (s : State) (o : OpenBit) : FlagsOnly s (openBit o s).2 := by
  cases o with
  | zero | one => exact flagsOnly_set s s.flags
  | draw => exact flagsOnly_drawBit s

theorem flagsOnly_setVK (s : State) (v k : Bool) : FlagsOnly s (s.setVK v k) := by
  unfold State.setVK
  split
  · exact flagsOnly_set s _
  · exact ((flagsOnly_drawBit s).trans (flagsOnly_drawBit _)).trans (flagsOnly_set _ _)

theorem flagsOnly_arithFlags (s : State) (o : AluOut) (cy : Bool) :
    FlagsOnly s (s.arithFlags o cy) :=
  (flagsOnly_set s _).trans (flagsOnly_setVK (((s.setSzp o.res).setAc o.ac).setCy cy) _ _)

/-- Writing flags an instruction may write keeps its frame. -/
theorem FlagsOnly.frame (g : FlagsOnly t u) (h : Frame i s t)
    (kept : ∀ f, f ∉ mayWriteFlags i s → u.flags.get f = t.flags.get f) : Frame i s u := by
  obtain ⟨flags, fresh, -, rfl⟩ := g
  obtain ⟨hreg, hsp, hpc, hflags, rest⟩ := h
  exact ⟨hreg, hsp, hpc, fun f n => (kept f n).trans (hflags f n), rest⟩

/-- An instruction with no cell "unchanged" in its row of R37 may write every flag. -/
theorem mem_mayWriteFlags (m : (footprint i).flags = allFlags) (f : FlagName) :
    f ∈ mayWriteFlags i s := by
  rw [mayWriteFlags, m]
  exact List.mem_append_left _ (by cases f <;> decide)

theorem FlagsOnly.frame_of_allFlags (g : FlagsOnly t u) (h : Frame i s t)
    (m : (footprint i).flags = allFlags) : Frame i s u :=
  g.frame h fun f n => absurd (mem_mayWriteFlags m f) n

/-! ## V and K -/

/-- Without VK_EXACT, V and K are the last two free values drawn (R39). -/
theorem vkFree_setVK (hp : t.params = s.params) (v k : Bool) : VkFree s (t.setVK v k) := by
  intro free
  rw [← hp] at free
  obtain ⟨hv, hk, hfresh⟩ := setVK_free t free v k
  rw [hv, hk, hfresh]
  exact ⟨rfl, rfl⟩

/-- V and K against the exact signed result, from what the adder's outputs say of it. -/
theorem vkOf_arithFlags {o : AluOut} {value : Int} (hp : t.params = s.params) (cy : Bool)
    (hv : o.v = true ↔ value < -128 ∨ 127 < value)
    (hk : (o.v ^^ o.res.getLsbD 7) = true ↔ value < 0) :
    VkOf s (t.arithFlags o cy) value := by
  obtain ⟨-, -, -, -, -, vk⟩ := flagsFrom_arithFlags t o cy
  refine ⟨fun e => ?_, vkFree_setVK (t := ((t.setSzp o.res).setAc o.ac).setCy cy) hp _ _⟩
  obtain ⟨v, k⟩ := vk (hp ▸ e)
  rw [v, k]
  exact ⟨hv, hk⟩

/-! ## The flags of a sum and of a difference -/

theorem szpOf_arithFlags (t : State) (o : AluOut) (cy : Bool) :
    SzpOf (t.arithFlags o cy).flags o.res := by
  obtain ⟨hs, hz, hp, -⟩ := flagsFrom_arithFlags t o cy
  exact (szpOf_iff _ _).2 ⟨hs, hz, hp⟩

@[simp] theorem arithFlags_flags_ac (t : State) (o : AluOut) (cy : Bool) :
    (t.arithFlags o cy).flags.ac = o.ac := setVK_flags_ac _ _ _

@[simp] theorem arithFlags_flags_cy (t : State) (o : AluOut) (cy : Bool) :
    (t.arithFlags o cy).flags.cy = cy := setVK_flags_cy _ _ _

theorem sumFlags_arithFlags (hp : t.params = s.params) (x y : Byte) (cin cy : Bool) :
    SumFlags s (t.arithFlags (add8 x y cin) cy) x y cin (add8 x y cin).res := by
  refine ⟨szpOf_arithFlags t _ cy, ?ac,
    vkOf_arithFlags hp cy (add8_v_iff_unfit x y cin) (add8_k_iff_neg x y cin)⟩
  case ac =>
    rw [arithFlags_flags_ac]
    exact add8_ac_iff x y cin

theorem diffFlags_arithFlags (hp : t.params = s.params) (x y : Byte) (bin cy : Bool) :
    DiffFlags s (t.arithFlags (sub8 x y bin) cy) x y bin (sub8 x y bin).res := by
  refine ⟨szpOf_arithFlags t _ cy, ?ac,
    vkOf_arithFlags hp cy (sub8_v_iff_unfit x y bin) (sub8_k_iff_neg x y bin)⟩
  case ac =>
    rw [arithFlags_flags_ac]
    exact sub8_ac_iff x y bin

end Sys2Proof.Machine
end

section
/-! SUPPORT. The accumulator operations with a second operand (45_arith_logic.md section 2): each is one update
of A and the flags after its operand is read, so what it does is proved once for the register, memory and
immediate forms (R213 to R236). -/

namespace Sys2Proof.Machine

variable {s t : State} {i : Instr}

/-! ## Reading the operand -/

/-- From s to t an operand was read: the processor is as it was, and nothing was stored (R64). -/
structure OperandRead (s t : State) : Prop where
  kept : ProcessorKept s t
  stores : StoresOnly s t []
  fresh : s.env.fresh ≤ t.env.fresh

/-- A register or an immediate byte is in hand. -/
theorem OperandRead.refl (s : State) : OperandRead s s :=
  ⟨⟨rfl, rfl, rfl, rfl, rfl, rfl, rfl, rfl, rfl⟩, .of_eq rfl rfl rfl, le_rfl⟩

/-- A read draws at most one free value: that of an absent address, or of a device whose script has ended
(R73). -/
theorem fresh_le_memRead (s : State) (a : Word) : s.env.fresh ≤ (memRead s a).2.env.fresh := by
  rw [← atCycle_env_fresh s, memRead]
  rcases transferIn_cases (s := s.atCycle) a with ⟨-, plain⟩ | ⟨-, absent⟩ | ⟨-, device⟩
  · rw [plain]
  · rw [absent]
    exact Nat.le_succ _
  · rw [device, log_env_fresh]
    rcases busAnswer_cases (s := s.atCycle) with ⟨-, ended⟩ | ⟨v, rest, -, scripted⟩
    · rw [ended]
      exact Nat.le_succ _
    · rw [scripted]

theorem OperandRead.memRead (s : State) (a : Word) : OperandRead s (memRead s a).2 :=
  ⟨processorKept_memRead a, storesOnly_memRead a, fresh_le_memRead s a⟩

theorem OperandRead.frame (h : OperandRead s t) : Frame i s t := h.kept.frame h.stores (by simp)

theorem OperandRead.params (h : OperandRead s t) : t.params = s.params :=
  let ⟨hp, _⟩ := h.stores
  hp

/-! ## Additions, subtractions and comparisons -/

@[simp] theorem setReg_a (s : State) (v : Byte) : (s.setReg .a v).regs.a = v := rfl

/-- Reading an operand, writing A and writing flags are in the frame of every operation on A. -/
theorem frame_accumulator {u : State} {v : Byte} (read : OperandRead s t)
    (row : footprint i = { regs := [.a], flags := allFlags }) (g : FlagsOnly (t.setReg .a v) u) :
    Frame i s u :=
  g.frame_of_allFlags (read.frame.setReg v (by simp [row])) (by rw [row])

/-- What every addition to A does, from its effect and its row of R37. -/
theorem addsToA_of_exec {y : Byte} {cin : Bool} (read : OperandRead s t)
    (row : footprint i = { regs := [.a], flags := allFlags })
    (e : exec i s = .next (accAdd t y cin)) : AddsToA i s y cin := by
  rw [accAdd, read.kept.regs] at e
  refine ⟨_, e, frame_accumulator read row (flagsOnly_arithFlags _ _ _), ?_⟩
  simp only [arithFlags_regs, setReg_a, arithFlags_flags_cy]
  exact ⟨add8_res_toNat _ _ _, add8_cy_iff _ _ _,
    sumFlags_arithFlags ((setReg_params t .a _).trans read.params) _ _ _ _⟩

/-- What every subtraction from A does, from its effect and its row of R37. -/
theorem subtractsFromA_of_exec {y : Byte} {bin : Bool} (read : OperandRead s t)
    (row : footprint i = { regs := [.a], flags := allFlags })
    (e : exec i s = .next (accSub t y bin)) : SubtractsFromA i s y bin := by
  rw [accSub, read.kept.regs] at e
  refine ⟨_, e, frame_accumulator read row (flagsOnly_arithFlags _ _ _), ?_⟩
  simp only [arithFlags_regs, setReg_a, arithFlags_flags_cy]
  exact ⟨sub8_res_toNat _ _ _, sub8_cy_iff _ _ _,
    diffFlags_arithFlags ((setReg_params t .a _).trans read.params) _ _ _ _⟩

/-- What every comparison with A does, from its effect and its row of R37: A is not in its frame. -/
theorem comparesA_of_exec {y : Byte} (read : OperandRead s t)
    (row : footprint i = { flags := allFlags }) (e : exec i s = .next (accCmp t y)) :
    ComparesA i s y := by
  rw [accCmp, read.kept.regs] at e
  refine ⟨_, e, (flagsOnly_arithFlags _ _ _).frame_of_allFlags read.frame (by rw [row]), ?_⟩
  simp only [arithFlags_regs, read.kept.regs, arithFlags_flags_cy, ← sub8_res]
  exact ⟨trivial, sub8_cy_iff _ _ _, diffFlags_arithFlags read.params _ _ _ _⟩

/-- Settles O45: the operand is in hand or read at HL, and then added with no carry or with CY. -/
theorem additionsAddToA : Obligations.AdditionsAddToA := by
  refine fun s =>
    ⟨fun r => ⟨?addR, addsToA_of_exec (.refl s) rfl rfl⟩,
      ⟨?addM, addsToA_of_exec (.memRead s s.hl) rfl rfl⟩,
      fun v => ⟨?adi, addsToA_of_exec (.refl s) rfl rfl⟩,
      fun r => ⟨?adcR, addsToA_of_exec (.refl s) rfl rfl⟩,
      ⟨?adcM, addsToA_of_exec (.memRead s s.hl) rfl rfl⟩,
      fun v => ⟨?aci, addsToA_of_exec (.refl s) rfl rfl⟩⟩
  case addR | adcR => cases r <;> exact encodes_one rfl rfl
  case addM | adcM => exact encodes_one rfl rfl
  case adi | aci => exact encodes_two rfl rfl

/-- Settles O46: the operand is in hand or read at HL, and then subtracted with no borrow or with CY. -/
theorem subtractionsSubtractFromA : Obligations.SubtractionsSubtractFromA := by
  refine fun s =>
    ⟨fun r => ⟨?subR, subtractsFromA_of_exec (.refl s) rfl rfl⟩,
      ⟨?subM, subtractsFromA_of_exec (.memRead s s.hl) rfl rfl⟩,
      fun v => ⟨?sui, subtractsFromA_of_exec (.refl s) rfl rfl⟩,
      fun r => ⟨?sbbR, subtractsFromA_of_exec (.refl s) rfl rfl⟩,
      ⟨?sbbM, subtractsFromA_of_exec (.memRead s s.hl) rfl rfl⟩,
      fun v => ⟨?sbi, subtractsFromA_of_exec (.refl s) rfl rfl⟩⟩
  case subR | sbbR => cases r <;> exact encodes_one rfl rfl
  case subM | sbbM => exact encodes_one rfl rfl
  case sui | sbi => exact encodes_two rfl rfl

/-- Settles O48: a comparison is the subtraction without the write of A. -/
theorem comparisonsSetFlagsOnly : Obligations.ComparisonsSetFlagsOnly := by
  refine fun s =>
    ⟨fun r => ⟨?cmpR, comparesA_of_exec (.refl s) rfl rfl⟩,
      ⟨?cmpM, comparesA_of_exec (.memRead s s.hl) rfl rfl⟩,
      fun v => ⟨?cpi, comparesA_of_exec (.refl s) rfl rfl⟩⟩
  case cmpR => cases r <;> exact encodes_one rfl rfl
  case cmpM => exact encodes_one rfl rfl
  case cpi => exact encodes_two rfl rfl

/-! ## Bitwise operations -/

/-- AC of a bitwise operation, drawn before the other flags are written: the parameter's after an AND, 0 after the
others (R212). -/
def logicAc (s : State) (isAnd : Bool) : Bool × State :=
  if isAnd then openBit s.params.anaAc s else (false, s)

/-- The state in which V and K of a bitwise operation are written, every other flag being in place. -/
def logicBeforeVK (s : State) (res : Byte) (isAnd : Bool) : State :=
  (((logicAc s isAnd).2.setSzp res).setAc (logicAc s isAnd).1).setCy false

theorem logicFlags_eq (s : State) (res : Byte) (isAnd : Bool) :
    s.logicFlags res isAnd = (logicBeforeVK s res isAnd).setVK false (res.getLsbD 7) := rfl

theorem flagsOnly_logicAc (s : State) (isAnd : Bool) : FlagsOnly s (logicAc s isAnd).2 := by
  cases isAnd with
  | true => exact flagsOnly_openBit s _
  | false => exact flagsOnly_set s s.flags

theorem flagsOnly_logicBeforeVK (s : State) (res : Byte) (isAnd : Bool) :
    FlagsOnly s (logicBeforeVK s res isAnd) :=
  (flagsOnly_logicAc s isAnd).trans (flagsOnly_set _ _)

theorem flagsOnly_logicFlags (s : State) (res : Byte) (isAnd : Bool) :
    FlagsOnly s (s.logicFlags res isAnd) :=
  (flagsOnly_logicBeforeVK s res isAnd).trans (flagsOnly_setVK _ _ _)

theorem szpOf_logicFlags (s : State) (res : Byte) (isAnd : Bool) :
    SzpOf (s.logicFlags res isAnd).flags res := by
  rw [logicFlags_eq]
  exact (szpOf_iff _ _).2 ⟨setVK_flags_s _ _ _, setVK_flags_z _ _ _, setVK_flags_p _ _ _⟩

theorem logicFlags_flags_cy (s : State) (res : Byte) (isAnd : Bool) :
    (s.logicFlags res isAnd).flags.cy = false := setVK_flags_cy (logicBeforeVK s res isAnd) _ _

theorem logicFlags_flags_ac (s : State) (res : Byte) (isAnd : Bool) :
    (s.logicFlags res isAnd).flags.ac = (logicAc s isAnd).1 :=
  setVK_flags_ac (logicBeforeVK s res isAnd) _ _

/-- With VK_EXACT, V is 0 and K is the sign of the result (R212). -/
theorem logicFlags_vk_of_exact (s : State) (res : Byte) (isAnd : Bool)
    (h : s.params.vkExact = true) :
    (s.logicFlags res isAnd).flags.v = false ∧
      (s.logicFlags res isAnd).flags.k = (s.logicFlags res isAnd).flags.s := by
  rw [← (flagsOnly_logicBeforeVK s res isAnd).params] at h
  obtain ⟨v, k⟩ := setVK_flags_of_exact _ false (res.getLsbD 7) h
  exact ⟨v, k.trans (setVK_flags_s (logicBeforeVK s res isAnd) _ _).symm⟩

theorem vkFree_logicFlags (hp : t.params = s.params) (res : Byte) (isAnd : Bool) :
    VkFree s (t.logicFlags res isAnd) :=
  vkFree_setVK ((flagsOnly_logicBeforeVK t res isAnd).params.trans hp) _ _

/-- Where ANA_AC leaves AC open, it is a value drawn by the operation itself (R212). -/
theorem logicAc_drawn (h : s.params.anaAc = .draw) :
    (logicAc s true).1 = Config.freeBit s.env.fresh ∧
      (logicAc s true).2.env.fresh = s.env.fresh + 1 := by
  simp [logicAc, openBit, h, drawBit, State.nextFresh]

theorem logicFlags_fresh_of_draw (res : Byte) (h : s.params.anaAc = .draw) :
    s.env.fresh < (s.logicFlags res true).env.fresh := by
  obtain ⟨-, drawn⟩ := logicAc_drawn h
  have counted : (logicBeforeVK s res true).env.fresh = s.env.fresh + 1 := drawn
  have later := (flagsOnly_setVK (logicBeforeVK s res true) false (res.getLsbD 7)).fresh_le
  rw [counted] at later
  exact later

/-- What every bitwise operation does, from its effect and its row of R37. -/
theorem logicOnA_of_exec {res : Byte} {isAnd : Bool} (read : OperandRead s t)
    (row : footprint i = { regs := [.a], flags := allFlags })
    (e : exec i s = .next ((t.setReg .a res).logicFlags res isAnd)) : LogicOnA i s res isAnd := by
  have params : (t.setReg .a res).params = s.params := read.params
  refine ⟨_, e, frame_accumulator read row (flagsOnly_logicFlags _ _ _), ?a, szpOf_logicFlags _ _ _,
    logicFlags_flags_cy _ _ _, ?other, ?one, ?zero, ?draw, ?vk, vkFree_logicFlags params _ _⟩
  case a => rw [logicFlags_regs, setReg_a]
  case other =>
    rintro rfl
    exact logicFlags_flags_ac _ _ _
  case one | zero =>
    rintro rfl fixed
    simp [logicFlags_flags_ac, logicAc, openBit, read.params, fixed]
  case draw =>
    rintro rfl free
    rw [← params] at free
    obtain ⟨value, -⟩ := logicAc_drawn free
    exact ⟨t.env.fresh, read.fresh, logicFlags_fresh_of_draw res free,
      (logicFlags_flags_ac _ _ _).trans value⟩
  case vk => exact fun vkExact => logicFlags_vk_of_exact _ _ _ (params ▸ vkExact)

theorem logicOnA_and {y : Byte} (read : OperandRead s t)
    (row : footprint i = { regs := [.a], flags := allFlags })
    (e : exec i s = .next (accAnd t y)) : LogicOnA i s (s.regs.a &&& y) true := by
  rw [accAnd, read.kept.regs] at e
  exact logicOnA_of_exec read row e

theorem logicOnA_xor {y : Byte} (read : OperandRead s t)
    (row : footprint i = { regs := [.a], flags := allFlags })
    (e : exec i s = .next (accXor t y)) : LogicOnA i s (s.regs.a ^^^ y) false := by
  rw [accXor, read.kept.regs] at e
  exact logicOnA_of_exec read row e

theorem logicOnA_or {y : Byte} (read : OperandRead s t)
    (row : footprint i = { regs := [.a], flags := allFlags })
    (e : exec i s = .next (accOr t y)) : LogicOnA i s (s.regs.a ||| y) false := by
  rw [accOr, read.kept.regs] at e
  exact logicOnA_of_exec read row e

/-- Settles O47: the operand is in hand or read at HL, and the bitwise result is put into A with its flags. -/
theorem logicWorksBitByBit : Obligations.LogicWorksBitByBit := by
  refine fun s =>
    ⟨fun r => ⟨?anaR, logicOnA_and (.refl s) rfl rfl⟩,
      ⟨?anaM, logicOnA_and (.memRead s s.hl) rfl rfl⟩,
      fun v => ⟨?ani, logicOnA_and (.refl s) rfl rfl⟩,
      fun r => ⟨?xraR, logicOnA_xor (.refl s) rfl rfl⟩,
      ⟨?xraM, logicOnA_xor (.memRead s s.hl) rfl rfl⟩,
      fun v => ⟨?xri, logicOnA_xor (.refl s) rfl rfl⟩,
      fun r => ⟨?oraR, logicOnA_or (.refl s) rfl rfl⟩,
      ⟨?oraM, logicOnA_or (.memRead s s.hl) rfl rfl⟩,
      fun v => ⟨?ori, logicOnA_or (.refl s) rfl rfl⟩⟩
  case anaR | xraR | oraR => cases r <;> exact encodes_one rfl rfl
  case anaM | xraM | oraM => exact encodes_one rfl rfl
  case ani | xri | ori => exact encodes_two rfl rfl

end Sys2Proof.Machine
end

section
/-! SUPPORT. DSUB (R238): the 16-bit difference, its signed overflow and its sign are those of the library's signed
arithmetic, so K is the signed comparison (R36). -/

namespace Sys2Proof.Machine

variable {s : State}

/-! ## Signed differences -/

/-- Overflow xor the sign of the difference is the signed comparison, at every width (R36). -/
theorem ssubOverflow_xor_msb {w : Nat} (x y : BitVec w) :
    (x.ssubOverflow y ^^ (x - y).msb) = x.slt y := by
  rw [Bool.eq_iff_iff, BitVec.slt_iff_toInt_lt]
  cases h : x.ssubOverflow y with
  | false =>
    have fits := BitVec.toInt_sub_of_not_ssubOverflow (Bool.eq_false_iff.1 h)
    rw [Bool.false_xor, BitVec.msb_eq_toInt, decide_eq_true_iff, fits, sub_neg]
  | true =>
    rw [BitVec.ssubOverflow_eq] at h
    have signs : (x - y).msb = !x.msb ∧ y.msb = !x.msb := by
      revert h
      cases x.msb <;> cases y.msb <;> cases (x - y).msb <;> decide
    obtain ⟨difference, other⟩ := signs
    rw [difference, Bool.true_xor, Bool.not_not, BitVec.msb_eq_toInt, decide_eq_true_iff]
    rw [BitVec.msb_eq_toInt, BitVec.msb_eq_toInt, Bool.eq_iff_iff] at other
    simp only [decide_eq_true_iff, Bool.not_eq_true', decide_eq_false_iff_not] at other
    omega

/-- The operands differ in sign and the result from the first: the difference does not fit (R238). -/
theorem ssubOverflow_eq_signs (x y : Word) :
    decide (x.getLsbD 15 ≠ y.getLsbD 15 ∧ (x - y).getLsbD 15 ≠ x.getLsbD 15) =
      x.ssubOverflow y := by
  rw [BitVec.ssubOverflow_eq, BitVec.msb_eq_getLsbD_last, BitVec.msb_eq_getLsbD_last,
    BitVec.msb_eq_getLsbD_last]
  cases x.getLsbD 15 <;> cases y.getLsbD 15 <;> cases (x - y).getLsbD 15 <;> rfl

theorem ssubOverflow_iff (x y : Word) :
    x.ssubOverflow y = true ↔ x.toInt - y.toInt < -32768 ∨ 32767 < x.toInt - y.toInt := by
  simp only [BitVec.ssubOverflow, Bool.or_eq_true, decide_eq_true_iff]
  omega

/-! ## DSUB -/

/-- The three draws of DSUB, for Z, P and AC (R238). -/
def dsubDrawn (s : State) : State := (drawBit (drawBit (drawBit s).2).2).2

/-- DSUB before V and K are written. -/
def dsubBeforeVK (s : State) : State :=
  { (dsubDrawn s).setPair .hl (s.hl - s.bc) with
    flags := { s.flags with
      s := (s.hl - s.bc).msb
      z := Config.freeBit s.env.fresh
      p := Config.freeBit (s.env.fresh + 1)
      ac := Config.freeBit (s.env.fresh + 2)
      cy := decide (s.hl.toNat < s.bc.toNat) } }

theorem exec_dsub (s : State) :
    exec .dsub s =
      ifAdmitted s "DSUB" ((dsubBeforeVK s).setVK (s.hl.ssubOverflow s.bc) (s.hl.slt s.bc)) := by
  rw [← ssubOverflow_xor_msb, ← ssubOverflow_eq_signs, BitVec.msb_eq_getLsbD_last]
  rfl

theorem dsub_frame (s : State) (v k : Bool) : Frame .dsub s ((dsubBeforeVK s).setVK v k) := by
  have drawn : FlagsOnly s (dsubDrawn s) :=
    ((flagsOnly_drawBit s).trans (flagsOnly_drawBit _)).trans (flagsOnly_drawBit _)
  have pair : Frame .dsub s ((dsubDrawn s).setPair .hl (s.hl - s.bc)) :=
    (drawn.frame_of_allFlags frame_refl rfl).setPair _ (by simp [pairRegs]) (by simp [isSp])
  exact ((flagsOnly_set _ _).trans (flagsOnly_setVK (dsubBeforeVK s) v k)).frame_of_allFlags pair rfl

/-- Settles O50: HL - BC with its borrow, V and K from the library's signed overflow and comparison. -/
theorem dsubSubtractsBc : Obligations.DsubSubtractsBc := by
  refine ⟨encodes_one rfl rfl, fun s => completesIfAdmitted_of_exec (exec_dsub s) (dsub_frame s _ _) ?_⟩
  have hl : ((dsubBeforeVK s).setVK (s.hl.ssubOverflow s.bc) (s.hl.slt s.bc)).hl = s.hl - s.bc := by
    rw [State.hl, setVK_regs]
    exact pair_setPair (dsubDrawn s) .hl _
  refine ⟨?difference, ?borrow, ?sign, setVK_flags_z _ _ _, setVK_flags_p _ _ _,
    setVK_flags_ac _ _ _, fun vkExact => ?vk, vkFree_setVK (t := dsubBeforeVK s) rfl _ _⟩
  case difference =>
    rw [hl]
    bv_omega
  case borrow =>
    rw [setVK_flags_cy]
    exact decide_eq_true_iff
  case sign =>
    have written : (dsubBeforeVK s).flags.s = (s.hl - s.bc).msb := rfl
    rw [hl, setVK_flags_s, written, BitVec.msb_eq_true_iff_two_mul_ge]
    omega
  case vk =>
    obtain ⟨v, k⟩ := setVK_flags_of_exact (dsubBeforeVK s) (s.hl.ssubOverflow s.bc)
      (s.hl.slt s.bc) vkExact
    rw [v, k, ssubOverflow_iff, BitVec.slt_iff_toInt_lt]
    exact ⟨.rfl, .rfl⟩

end Sys2Proof.Machine
end

section
/-! SUPPORT. Writing CY, and V and K after it, in the frame of an instruction with a row in R37's table: V and K are
kept where the row says so with VK_EXACT, and written by every row without it (R39). -/

namespace Sys2Proof.Machine

variable {s t : State} {i : Instr}

theorem Frame.params (h : Frame i s t) : t.params = s.params := by
  obtain ⟨-, -, -, -, -, -, -, -, -, -, -, -, -, params, -⟩ := h
  exact params

/-- A flag in the instruction's row of R37 is one it may write, with VK_EXACT or without. -/
theorem mem_mayWriteFlags_of_row {f : FlagName} (m : f ∈ (footprint i).flags) :
    f ∈ mayWriteFlags i s :=
  List.mem_append_left _ m

/-- Where V or K may not be written by an instruction with a row in R37's table, VK_EXACT holds (R39). -/
theorem vkExact_of_notMem_mayWriteFlags {f : FlagName} (row : (footprint i).flagRow = true)
    (vk : f ∈ [FlagName.v, .k]) (n : f ∉ mayWriteFlags i s) : s.params.vkExact = true := by
  by_contra free
  exact n (List.mem_append_right _ (by simpa [row, free] using vk))

theorem Frame.setCy (h : Frame i s t) (cy : Bool) (m : .cy ∈ (footprint i).flags) :
    Frame i s (t.setCy cy) :=
  (flagsOnly_set t { t.flags with cy := cy }).frame h fun f n => by
    cases f with
    | cy => exact absurd (mem_mayWriteFlags_of_row m) n
    | s | z | k | ac | p | v => rfl

/-- Writing V and K is in the frame if with VK_EXACT each is in the row of R37 or is given its old value. -/
theorem Frame.setVK {v k : Bool} (h : Frame i s t) (row : (footprint i).flagRow = true)
    (hv : .v ∉ (footprint i).flags → v = t.flags.v)
    (hk : .k ∉ (footprint i).flags → k = t.flags.k) : Frame i s (t.setVK v k) :=
  (flagsOnly_setVK t v k).frame h fun f n => by
    have unlisted : f ∉ (footprint i).flags := fun m => n (mem_mayWriteFlags_of_row m)
    have written (vk : f ∈ [FlagName.v, .k]) :
        (t.setVK v k).flags.v = v ∧ (t.setVK v k).flags.k = k :=
      setVK_flags_of_exact t v k (h.params ▸ vkExact_of_notMem_mayWriteFlags row vk n)
    cases f with
    | s => exact setVK_flags_s t v k
    | z => exact setVK_flags_z t v k
    | ac => exact setVK_flags_ac t v k
    | p => exact setVK_flags_p t v k
    | cy => exact setVK_flags_cy t v k
    | v => exact (written (by simp)).1.trans (hv unlisted)
    | k => exact (written (by simp)).2.trans (hk unlisted)

theorem Frame.keepVK (h : Frame i s t) (row : (footprint i).flagRow = true) :
    Frame i s t.keepVK :=
  h.setVK row (fun _ => rfl) fun _ => rfl

end Sys2Proof.Machine
end

section
/-! SUPPORT. Rotates and shifts (46_shift.md): each puts one bit in at an end of a register or pair and the bit that
leaves into CY. The new value is plain arithmetic at every width; what is written and what is kept is said once
for the four rotates of A. -/

namespace Sys2Proof.Machine

variable {s : State} {i : Instr}

/-! ## One bit in, one bit out -/

theorem getLsbD_toNat {w : Nat} (x : BitVec w) (n : Nat) :
    (x.getLsbD n).toNat = x.toNat / 2 ^ n % 2 :=
  Nat.toNat_testBit x.toNat n

theorem getLsbD_zero_toNat {w : Nat} (x : BitVec w) : (x.getLsbD 0).toNat = x.toNat % 2 := by
  rw [getLsbD_toNat, pow_zero, Nat.div_one]

theorem getLsbD_zero_iff {w : Nat} (x : BitVec w) : x.getLsbD 0 = true ↔ x.toNat % 2 = 1 := by
  rw [← getLsbD_zero_toNat, Bool.toNat_eq_one]

theorem getLsbD_top_toNat {n : Nat} (x : BitVec (n + 1)) :
    (x.getLsbD n).toNat = x.toNat / 2 ^ n := by
  have bound : x.toNat / 2 ^ n < 2 := Nat.div_lt_of_lt_mul (pow_succ 2 n ▸ x.isLt)
  rw [getLsbD_toNat, Nat.mod_eq_of_lt bound]

theorem getLsbD_top_iff {n : Nat} (x : BitVec (n + 1)) :
    x.getLsbD n = true ↔ 2 ^ n ≤ x.toNat := by
  have top : x.getLsbD n = x.msb := (BitVec.msb_eq_getLsbD_last x).symm
  rw [top, BitVec.msb_eq_decide, decide_eq_true_iff, Nat.add_sub_cancel]

/-- All bits but the top one move up, and b goes in below. -/
theorem shiftInLow_toNat {n : Nat} (x : BitVec (n + 1)) (b : Bool) :
    (x.extractLsb' 0 n ++ BitVec.ofBool b).toNat = x.toNat * 2 % 2 ^ (n + 1) + b.toNat := by
  have concat : x.extractLsb' 0 n ++ BitVec.ofBool b = (x.extractLsb' 0 n).concat b := rfl
  rw [concat, BitVec.toNat_concat, BitVec.extractLsb'_toNat, Nat.shiftRight_zero, pow_succ,
    Nat.mul_mod_mul_right]

/-- All bits but the lowest one move down, and b goes in above. -/
theorem shiftInHigh_toNat {n : Nat} (x : BitVec (n + 1)) (b : Bool) :
    (BitVec.ofBool b ++ x.extractLsb' 1 n).toNat = x.toNat / 2 + b.toNat * 2 ^ n := by
  have half : x.toNat / 2 < 2 ^ n := Nat.div_lt_of_lt_mul (pow_succ' 2 n ▸ x.isLt)
  rw [BitVec.toNat_append, BitVec.extractLsb'_toNat, Nat.shiftRight_one, Nat.mod_eq_of_lt half,
    BitVec.toNat_ofBool, ← Nat.shiftLeft_add_eq_or_of_lt half, Nat.shiftLeft_eq, add_comm]

/-- The bit that leaves at the top goes in below (R245). -/
theorem rotateLeft_toNat {n : Nat} (x : BitVec (n + 1)) :
    (x.extractLsb' 0 n ++ BitVec.ofBool (x.getLsbD n)).toNat =
      x.toNat * 2 % 2 ^ (n + 1) + x.toNat / 2 ^ n := by
  rw [shiftInLow_toNat, getLsbD_top_toNat]

/-- The bit that leaves below goes in at the top (R246). -/
theorem rotateRight_toNat {n : Nat} (x : BitVec (n + 1)) :
    (BitVec.ofBool (x.getLsbD 0) ++ x.extractLsb' 1 n).toNat =
      x.toNat / 2 + x.toNat % 2 * 2 ^ n := by
  rw [shiftInHigh_toNat, getLsbD_zero_toNat]

/-- A shift down that keeps the top bit is division by two of the signed value (R249). -/
theorem shiftInSign_toInt (x : Word) :
    (BitVec.ofBool (x.getLsbD 15) ++ x.extractLsb' 1 15 : Word).toInt = x.toInt / 2 := by
  have shifted := shiftInHigh_toNat (n := 15) x (x.getLsbD 15)
  rw [getLsbD_top_toNat (n := 15)] at shifted
  rw [BitVec.toInt_eq_toNat_cond, BitVec.toInt_eq_toNat_cond]
  omega

/-! ## Rotates of A -/

/-- What every rotate does, from its effect and its row of R37. -/
theorem rotate_completes {res : Byte} {out : Bool} {value : Nat} {bit : Prop}
    (row : footprint i = { regs := [.a], flags := [.cy] })
    (e : exec i s = .next ((s.setReg .a res).setCy out).keepVK)
    (hres : res.toNat = value) (hout : out = true ↔ bit) :
    Completes i s fun t => t.regs.a.toNat = value ∧ (t.flags.cy = true ↔ bit) ∧ VkFree s t := by
  have frame : Frame i s ((s.setReg .a res).setCy out).keepVK :=
    ((frame_refl.setReg res (by simp [row])).setCy out (by simp [row])).keepVK (by simp [row])
  refine ⟨_, e, frame, ?a, ?cy, vkFree_setVK (t := (s.setReg .a res).setCy out) rfl _ _⟩
  case a => rw [keepVK_regs, setCy_regs, setReg_a, hres]
  case cy => rw [keepVK_flags_cy, setCy_flags, hout]

/-- Settles O51: RLC and RRC put back the bit that leaves, RAL and RAR put in the old CY. -/
theorem rotatesMoveOneBit : Obligations.RotatesMoveOneBit :=
  ⟨⟨encodes_one rfl rfl, encodes_one rfl rfl, encodes_one rfl rfl, encodes_one rfl rfl⟩,
    fun _ => ⟨rotate_completes rfl rfl (rotateLeft_toNat (n := 7) _) (getLsbD_top_iff (n := 7) _),
      rotate_completes rfl rfl (rotateRight_toNat (n := 7) _) (getLsbD_zero_iff _),
      rotate_completes rfl rfl (shiftInLow_toNat (n := 7) _ _) (getLsbD_top_iff (n := 7) _),
      rotate_completes rfl rfl (shiftInHigh_toNat (n := 7) _ _) (getLsbD_zero_iff _)⟩⟩

/-! ## Shifts of a pair -/

theorem pair_setVK (q : Pair) (v k : Bool) : (s.setVK v k).pair q = s.pair q := by
  cases q <;> simp [State.pair, State.bc, State.de, State.hl]

/-- What is written by either shift: the pair, CY, and V and K by their rule. -/
theorem pairShift_written (s : State) (q : Pair) (res : Word) (out v k : Bool) :
    (((s.setPair q res).setCy out).setVK v k).pair q = res ∧
      (((s.setPair q res).setCy out).setVK v k).flags.cy = out ∧
      VkFree s (((s.setPair q res).setCy out).setVK v k) := by
  refine ⟨(pair_setVK q v k).trans (pair_setPair s q res), ?cy, vkFree_setVK (by simp) v k⟩
  case cy => rw [setVK_flags_cy, setCy_flags]

/-- ARHL keeps bit 15, so it divides the signed value (R249). -/
theorem arhl_completesIfAdmitted (s : State) :
    CompletesIfAdmitted .arhl "ARHL" s fun t =>
      t.hl.toInt = s.hl.toInt / 2 ∧ (t.flags.cy = true ↔ s.hl.toNat % 2 = 1) ∧ VkFree s t := by
  have frame (res : Word) (out : Bool) :
      Frame .arhl s ((s.setPair .hl res).setCy out).keepVK :=
    ((frame_refl.setPair res (by simp [pairRegs]) (by simp [isSp])).setCy out (by simp)).keepVK rfl
  refine completesIfAdmitted_of_exec rfl (frame _ _) ?_
  obtain ⟨hl, cy, free⟩ := pairShift_written s .hl
    (BitVec.ofBool (s.hl.getLsbD 15) ++ s.hl.extractLsb' 1 15) (s.hl.getLsbD 0) s.flags.v s.flags.k
  exact ⟨(congrArg BitVec.toInt hl).trans (shiftInSign_toInt s.hl),
    (Bool.eq_iff_iff.1 cy).trans (getLsbD_zero_iff s.hl), free⟩

/-- The two top bits of DE are those of D (R23). -/
theorem de_top_bits (s : State) :
    s.de.getLsbD 15 = s.regs.d.getLsbD 7 ∧ s.de.getLsbD 14 = s.regs.d.getLsbD 6 := by
  rw [State.de, mkWord, BitVec.getLsbD_append, BitVec.getLsbD_append]
  exact ⟨rfl, rfl⟩

/-- RDEL puts the old CY in below; its V is the exclusive or of the old bits 15 and 14 (R250). -/
theorem rdel_completesIfAdmitted (s : State) :
    CompletesIfAdmitted .rdel "RDEL" s fun t =>
      t.de.toNat = s.de.toNat * 2 % 65536 + s.flags.cy.toNat ∧
        (t.flags.cy = true ↔ 32768 ≤ s.de.toNat) ∧
        (s.params.vkExact = true →
          t.flags.v = (s.regs.d.getLsbD 7 ^^ s.regs.d.getLsbD 6)) ∧
        VkFree s t := by
  have frame (res : Word) (out v : Bool) :
      Frame .rdel s (((s.setPair .de res).setCy out).setVK v s.flags.k) :=
    ((frame_refl.setPair res (by simp [pairRegs]) (by simp [isSp])).setCy out (by simp)).setVK rfl
      (by simp) fun _ => rfl
  refine completesIfAdmitted_of_exec rfl (frame _ _ _) ?_
  obtain ⟨de, cy, free⟩ := pairShift_written s .de
    (s.de.extractLsb' 0 15 ++ BitVec.ofBool s.flags.cy) (s.de.getLsbD 15)
    (s.de.getLsbD 15 ^^ s.de.getLsbD 14) s.flags.k
  refine ⟨(congrArg BitVec.toNat de).trans (shiftInLow_toNat (n := 15) s.de s.flags.cy),
    (Bool.eq_iff_iff.1 cy).trans (getLsbD_top_iff (n := 15) s.de), fun vkExact => ?v, free⟩
  case v =>
    obtain ⟨d7, d6⟩ := de_top_bits s
    obtain ⟨v, -⟩ := setVK_flags_of_exact ((s.setPair .de _).setCy _) _ s.flags.k vkExact
    rw [v, d7, d6]

/-- Settles O52: ARHL puts bit 15 back in above, RDEL puts the old CY in below. -/
theorem wideShiftsMoveOneBit : Obligations.WideShiftsMoveOneBit :=
  ⟨⟨encodes_one rfl rfl, encodes_one rfl rfl⟩,
    fun s => ⟨arhl_completesIfAdmitted s, rdel_completesIfAdmitted s⟩⟩

end Sys2Proof.Machine
end

section
/-! SUPPORT. Increment and decrement (47_incdec.md): the adder's or subtracter's result is put back into a register
or at HL, and then every flag but CY is written. What is written and what is kept is said once for both directions
(R255 to R258). -/

namespace Sys2Proof.Machine

variable {s t : State} {i : Instr} {o : AluOut} {P : State → Prop}

/-- Without a carry in, the result is the sum of the bytes. -/
theorem add8_res (a b : Byte) : (add8 a b false).res = a + b := by
  have sum := add8_res_toNat a b false
  rw [Bool.toNat_false] at sum
  bv_omega

/-! ## The flags of a count -/

/-- The row of R37 of INR and DCR: every flag but CY. -/
def countFlags : List FlagName := [.s, .z, .p, .ac, .v, .k]

/-- Writing the adder's flags with the CY of the start keeps the frame of an instruction with that row. -/
theorem Frame.arithFlags_keepCy (h : Frame i s t) (row : (footprint i).flags = countFlags) :
    Frame i s (t.arithFlags o s.flags.cy) :=
  (flagsOnly_arithFlags t o s.flags.cy).frame h fun f n => by
    cases f with
    | cy =>
      obtain ⟨-, -, -, flagsKept, -⟩ := h
      exact (arithFlags_flags_cy t o s.flags.cy).trans (flagsKept .cy n).symm
    | s | z | k | ac | p | v =>
      exact absurd (mem_mayWriteFlags_of_row (by simp [row, countFlags])) n

/-- Writing flags moves no byte and adds no event, so what was stored stays stored. -/
theorem Stored.arithFlags {a : Word} {v : Byte} {cy : Bool} (h : Stored s t a v) :
    Stored s (t.arithFlags o cy) a v := by
  have peek : (t.arithFlags o cy).peek a = t.peek a := peek_of_mem_eq (arithFlags_mem t o cy) a
  rw [stored_iff] at h ⊢
  rwa [peek, arithFlags_env_trace]

/-! ## A register and a byte of memory -/

/-- What INR r and DCR r do, from the output they write back. -/
theorem countRegister_completes {r : Reg}
    (row : footprint i = { regs := [r], flags := countFlags })
    (e : exec i s = .next ((s.setReg r o.res).arithFlags o s.flags.cy))
    (flags : P ((s.setReg r o.res).arithFlags o s.flags.cy)) :
    Completes i s fun t => t.reg r = o.res ∧ t.flags.cy = s.flags.cy ∧ P t := by
  have written : Frame i s (s.setReg r o.res) := frame_refl.setReg o.res (by simp [row])
  refine ⟨_, e, written.arithFlags_keepCy (by rw [row]), ?value, arithFlags_flags_cy _ o _, flags⟩
  case value => rw [State.reg, arithFlags_regs, ← State.reg, reg_setReg, if_pos rfl]

/-- The byte at HL is read and then stored to: nothing else of memory is written. -/
theorem frame_readThenStore {a : Word} (v : Byte) (stores : storesOf i s = [a]) :
    Frame i s (memWrite (memRead s a).2 a v) :=
  ((processorKept_memRead a).trans (processorKept_memWrite a v)).frame
    ((storesOnly_memRead a).trans (storesOnly_memWrite a v)) (by simp [stores])

/-- What INR M and DCR M do, from the output they store. -/
theorem countMemory_completes
    (row : footprint i = { flags := countFlags }) (stores : storesOf i s = [s.hl])
    (e : exec i s = .next ((memWrite (memRead s s.hl).2 s.hl o.res).arithFlags o s.flags.cy))
    (flags : P ((memWrite (memRead s s.hl).2 s.hl o.res).arithFlags o s.flags.cy)) :
    Completes i s fun t => Stored s t s.hl o.res ∧ t.flags.cy = s.flags.cy ∧ P t := by
  have stored : Stored s (memWrite (memRead s s.hl).2 s.hl o.res) s.hl o.res :=
    (stored_memWrite s.hl o.res).earlier (storesOnly_memRead s.hl)
  exact ⟨_, e, (frame_readThenStore o.res stores).arithFlags_keepCy (by rw [row]),
    stored.arithFlags, arithFlags_flags_cy _ o _, flags⟩

/-- Settles O54: the sum with 1 or the difference from it is written back, and its flags but CY are set. -/
theorem incrementsAndDecrementsByOne : Obligations.IncrementsAndDecrementsByOne := by
  refine fun s => ⟨fun r => ⟨?encodesInrR, ?inrR⟩, fun r => ⟨?encodesDcrR, ?dcrR⟩,
    ⟨encodes_one rfl rfl, ?inrM⟩, ⟨encodes_one rfl rfl, ?dcrM⟩⟩
  case encodesInrR | encodesDcrR => cases r <;> exact encodes_one rfl rfl
  case inrR =>
    rw [← add8_res (s.reg r) 1]
    exact countRegister_completes rfl rfl (sumFlags_arithFlags (setReg_params s r _) _ _ _ _)
  case dcrR =>
    rw [← sub8_res (s.reg r) 1]
    exact countRegister_completes rfl rfl (diffFlags_arithFlags (setReg_params s r _) _ _ _ _)
  case inrM =>
    rw [← add8_res (memRead s s.hl).1 1]
    exact countMemory_completes rfl rfl rfl (sumFlags_arithFlags (by simp) _ _ _ _)
  case dcrM =>
    rw [← sub8_res (memRead s s.hl).1 1]
    exact countMemory_completes rfl rfl rfl (diffFlags_arithFlags (by simp) _ _ _ _)

end Sys2Proof.Machine
end

section
/-! SUPPORT. The round trip of encoder and decoder (30_encoding.md): the encoder's bytes decode to the instruction by
the length of the first byte, and what the decoder answers depends on the operand bytes in its operand alone, so
256 first bytes decide the other direction (R91, R97, R100). -/

namespace Sys2Proof

open Sys2Proof.Machine

/-! ## Decoding what was encoded -/

theorem encodes_encode3 {op : Byte} {mk : Word → Instr} (h : Encodes3 op mk) (v : Word) :
    Encodes (encode3 op v) (mk v) := by
  have bytes := h (loByte v) (hiByte v)
  rwa [mkWord_hiByte_loByte] at bytes

/-- The bytes of a well-formed instruction decode to it, row by row of the opcode table. -/
theorem encodes_encode (i : Instr) (wf : i.wellFormed = true) : Encodes (encode i) i := by
  cases i with
  | movRR dst src => exact encodes_movRR dst src
  | movRM dst => exact encodes_movRM dst
  | movMR src => exact encodes_movMR src
  | mviR dst v => exact encodes_mviR dst v
  | lxi q v => exact encodes_encode3 (encodes_lxi q) v
  | ldax q | stax q =>
    cases q with
    | bc | de => exact encodes_one rfl rfl
    | hl | sp => exact nomatch wf
  | push q | pop q =>
    cases q with
    | bc | de | hl => exact encodes_one rfl rfl
    | sp => exact nomatch wf
  | rst n => exact encodes_rst n
  | inrR r | dcrR r | addR r | adcR r | subR r | sbbR r | anaR r | xraR r | oraR r | cmpR r =>
    cases r <;> exact encodes_one rfl rfl
  | dad q | inx q | dcx q => cases q <;> exact encodes_one rfl rfl
  | mviM v | ldhi v | ldsi v | inPort v | outPort v | adi v | aci v | sui v | sbi v | ani v | xri v
  | ori v | cpi v => exact encodes_two rfl rfl
  | lda v | sta v | lhld v | shld v | jmp v | jnz v | jz v | jnc v | jc v | jpo v | jpe v | jp v
  | jm v | jnk v | jk v | call v | cnz v | cz v | cnc v | cc v | cpo v | cpe v | cp v | cm v =>
    exact encodes_encode3 (encodes_three rfl fun _ _ => rfl) v
  | _ => exact encodes_one rfl rfl

/-- Settles O1: an instruction's bytes decode to it, whatever bytes follow. -/
theorem decodeInvertsEncode : Obligations.DecodeInvertsEncode :=
  fun i rest wf => encodes_encode i wf rest

/-- Settles O4: each word is the encoding of its instruction. -/
theorem specWordsDecode : Obligations.SpecWordsDecode :=
  have word (i : Instr) (wf : i.wellFormed = true) : decode (encode i ++ []) = .ok (i, []) :=
    encodes_encode i wf []
  ⟨word (.movRR .a .b) rfl, word .hlt rfl, word (.lxi .hl 0x1234) rfl, word (.stax .de) rfl,
    word .pushPsw rfl, word (.call 0x3000) rfl, word (.rst 5) rfl, word (.inPort 0x10) rfl,
    word (.adcR .c) rfl, word .dsub rfl, word .rar rfl, word .inrM rfl, word .rim rfl, word .ei rfl⟩

/-! ## Encoding what was decoded -/

/-- The instruction with the bytes b2 and b3 in the place of its operand. -/
def Instr.withOperand (b2 b3 : Byte) : Instr → Instr
  | .mviR r _ => .mviR r b2
  | .mviM _ => .mviM b2
  | .ldhi _ => .ldhi b2
  | .ldsi _ => .ldsi b2
  | .inPort _ => .inPort b2
  | .outPort _ => .outPort b2
  | .adi _ => .adi b2
  | .aci _ => .aci b2
  | .sui _ => .sui b2
  | .sbi _ => .sbi b2
  | .ani _ => .ani b2
  | .xri _ => .xri b2
  | .ori _ => .ori b2
  | .cpi _ => .cpi b2
  | .lxi q _ => .lxi q (mkWord b3 b2)
  | .lda _ => .lda (mkWord b3 b2)
  | .sta _ => .sta (mkWord b3 b2)
  | .lhld _ => .lhld (mkWord b3 b2)
  | .shld _ => .shld (mkWord b3 b2)
  | .jmp _ => .jmp (mkWord b3 b2)
  | .jnz _ => .jnz (mkWord b3 b2)
  | .jz _ => .jz (mkWord b3 b2)
  | .jnc _ => .jnc (mkWord b3 b2)
  | .jc _ => .jc (mkWord b3 b2)
  | .jpo _ => .jpo (mkWord b3 b2)
  | .jpe _ => .jpe (mkWord b3 b2)
  | .jp _ => .jp (mkWord b3 b2)
  | .jm _ => .jm (mkWord b3 b2)
  | .call _ => .call (mkWord b3 b2)
  | .cnz _ => .cnz (mkWord b3 b2)
  | .cz _ => .cz (mkWord b3 b2)
  | .cnc _ => .cnc (mkWord b3 b2)
  | .cc _ => .cc (mkWord b3 b2)
  | .cpo _ => .cpo (mkWord b3 b2)
  | .cpe _ => .cpe (mkWord b3 b2)
  | .cp _ => .cp (mkWord b3 b2)
  | .cm _ => .cm (mkWord b3 b2)
  | .jnk _ => .jnk (mkWord b3 b2)
  | .jk _ => .jk (mkWord b3 b2)
  | i => i

theorem wellFormed_withOperand (b2 b3 : Byte) (i : Instr) :
    (i.withOperand b2 b3).wellFormed = i.wellFormed := by
  cases i <;> rfl

theorem encode3_mkWord (op b2 b3 : Byte) : encode3 op (mkWord b3 b2) = [op, b2, b3] := by
  rw [encode3, loByte_mkWord, hiByte_mkWord]

/-- The operand's bytes stand after the first byte, as many as the instruction has. -/
theorem encode_withOperand (b2 b3 : Byte) (i : Instr) :
    encode (i.withOperand b2 b3) = ((encode i).take 1 ++ [b2, b3]).take (encode i).length := by
  cases i with
  | lxi | lda | sta | lhld | shld | jmp | jnz | jz | jnc | jc | jpo | jpe | jp | jm | jnk | jk | call | cnz
  | cz | cnc | cc | cpo | cpe | cp | cm => exact encode3_mkWord _ b2 b3
  | _ => rfl

/-- The operand bytes choose nothing: the first byte alone fixes the instruction (R90). -/
theorem decodeBytes_eq_withOperand (b1 b2 b3 : Byte) :
    decodeBytes b1 b2 b3 = (decodeBytes b1 0 0).withOperand b2 b3 := by
  have low : decodeLow b1 b2 b3 = (decodeLow b1 0 0).withOperand b2 b3 := by
    unfold decodeLow
    split <;> split <;> rfl
  have mov : decodeMov b1 = (decodeMov b1).withOperand b2 b3 := by
    unfold decodeMov
    split <;> rfl
  have alu : decodeAlu b1 = (decodeAlu b1).withOperand b2 b3 := by
    unfold decodeAlu
    split <;> rfl
  have high : decodeHigh b1 b2 b3 = (decodeHigh b1 0 0).withOperand b2 b3 := by
    unfold decodeHigh
    split
    case h_8 => rfl
    all_goals split <;> rfl
  unfold decodeBytes
  split
  · exact low
  · exact mov
  · exact alu
  · exact high

/-- Each of the 256 first bytes stands first in the encoding of the well-formed instruction it selects, which has
the length the byte fixes (R97, R100). -/
theorem encode_decodeBytes_first (b : Byte) :
    (decodeBytes b 0 0).wellFormed = true ∧ (encode (decodeBytes b 0 0)).take 1 = [b] ∧
      (encode (decodeBytes b 0 0)).length = lengthOf b := by
  revert b; decide

/-- Settles O2: the operand bytes are put back behind the first byte. -/
theorem encodeInvertsDecode : Obligations.EncodeInvertsDecode := by
  intro b1 b2 b3
  obtain ⟨wf, first, len⟩ := encode_decodeBytes_first b1
  rw [decodeBytes_eq_withOperand, wellFormed_withOperand, encode_withOperand, first, len]
  exact ⟨wf, rfl⟩

end Sys2Proof
end

section
/-! SUPPORT. Stack instructions (41_stack.md): PUSH and POP are the primitives with a pair or PSW, XTHL is a
two-byte read and two stores; on a ram stack a pop takes back what any push left (R142 to R146, R161, R180). -/

namespace Sys2Proof.Machine

variable {s t u : State} {i : Instr}

/-! ## Pairs -/

/-- What the other master will still write it would have written from s on. -/
theorem StoresOnly.notMem_dmaAddrs {a : Word} {ws : List Word} (h : StoresOnly s t ws)
    (d : a ∉ s.dmaAddrs) : a ∉ t.dmaAddrs :=
  let ⟨_, later, _⟩ := h
  later a d

/-- A push from a state whose memory only the other master changed since s is a push from s. -/
theorem Pushed.earlier {v : Word} (h : Pushed t u v) (sp : t.sp = s.sp)
    (stores : StoresOnly s t []) : Pushed s u v := by
  obtain ⟨hsp, high, low, others⟩ := h
  rw [sp] at hsp high low others
  exact ⟨hsp, fun d => (high (stores.notMem_dmaAddrs d)).earlier stores, low.earlier stores,
    fun a above below d => (others a above below (stores.notMem_dmaAddrs d)).trans
      (stores.peek_of_notMem List.not_mem_nil d)⟩

theorem push_completes (q : Pair) (s : State) :
    Completes (.push q) s fun t => Pushed s t (s.pair q) :=
  ⟨_, rfl, frame_push16 _ rfl rfl, pushed_push16 s _⟩

theorem frame_pop (q : Pair) (s : State) :
    Frame (.pop q) s ((pop16 s).2.setPair q (pop16 s).1) :=
  (frame_pop16 rfl).setPair _ (by simp) (by simp)

theorem setPair_sp {q : Pair} (v : Word) (n : q ≠ .sp) : (s.setPair q v).sp = s.sp := by
  cases q with
  | bc | de | hl => rfl
  | sp => exact absurd rfl n

theorem pop_completes {q : Pair} (n : q ≠ .sp) (s : State) :
    Completes (.pop q) s fun t => t.pair q = (memRead16 s s.sp).1 ∧ t.sp = s.sp + 2 :=
  ⟨_, rfl, frame_pop q s, pair_setPair _ q _, setPair_sp _ n⟩

/-! ## XTHL -/

/-- The state in which XTHL has made its four transfers and HL is still old (R146). -/
def xthlStored (s : State) : State :=
  memWrite (memWrite (memRead16 s s.sp).2 (s.sp + 1) s.regs.h) s.sp s.regs.l

theorem xthl_frame (s : State) (v : Word) : Frame .xthl s ((xthlStored s).setPair .hl v) := by
  have kept : ProcessorKept s (xthlStored s) :=
    ((processorKept_memRead16 s.sp).trans (processorKept_memWrite _ _)).trans
      (processorKept_memWrite _ _)
  have stores : StoresOnly s (xthlStored s) [s.sp + 1, s.sp] :=
    ((storesOnly_memRead16 s.sp).trans (storesOnly_memWrite (s.sp + 1) _)).trans
      (storesOnly_memWrite s.sp _)
  exact (kept.frame stores (by simp)).setPair v (by simp [pairRegs]) (by simp [isSp])

/-- H is stored first, so it can be overwritten before L is stored; L is stored last. -/
theorem stored_xthlStored (s : State) :
    (s.sp + 1 ∉ s.dmaAddrs → Stored s (xthlStored s) (s.sp + 1) s.regs.h) ∧
      Stored s (xthlStored s) s.sp s.regs.l := by
  have read : StoresOnly s (memRead16 s s.sp).2 [] := storesOnly_memRead16 s.sp
  refine ⟨fun d => ?high, ?low⟩
  case high =>
    exact ((stored_memWrite _ _).later (storesOnly_memWrite s.sp s.regs.l)
      (transfers_memWrite s.sp s.regs.l) (by simp)
      (not_mem_dmaAddrs_memWrite _ (read.notMem_dmaAddrs d))).earlier read
  case low =>
    exact (stored_memWrite _ _).earlier (read.trans (storesOnly_memWrite (s.sp + 1) s.regs.h))

theorem xthl_completes (s : State) :
    Completes .xthl s fun t => t.hl = (memRead16 s s.sp).1 ∧
      (s.sp + 1 ∉ s.dmaAddrs → Stored s t (s.sp + 1) s.regs.h) ∧ Stored s t s.sp s.regs.l :=
  ⟨_, rfl, xthl_frame s _, pair_setPair (xthlStored s) .hl _, stored_xthlStored s⟩

theorem encodes_push {q : Pair} (n : q ≠ .sp) : Encodes [opAt54 0xC5 q.code] (.push q) := by
  cases q with
  | bc | de | hl => exact encodes_one rfl rfl
  | sp => exact absurd rfl n

theorem encodes_pop {q : Pair} (n : q ≠ .sp) : Encodes [opAt54 0xC1 q.code] (.pop q) := by
  cases q with
  | bc | de | hl => exact encodes_one rfl rfl
  | sp => exact absurd rfl n

/-- Settles O32: the stack primitives with a pair, and the four transfers of XTHL. -/
theorem stackInstructionsMovePairs : Obligations.StackInstructionsMovePairs := fun s =>
  ⟨fun q n => ⟨encodes_push n, push_completes q s⟩, fun _ n => ⟨encodes_pop n, pop_completes n s⟩,
    encodes_one rfl rfl, xthl_completes s⟩

/-! ## PSW -/

/-- The bits of a byte put together from single bits. -/
theorem ofBits_getLsbD (b7 b6 b5 b4 b3 b2 b1 b0 : Bool) :
    (ofBits b7 b6 b5 b4 b3 b2 b1 b0).getLsbD 7 = b7 ∧ (ofBits b7 b6 b5 b4 b3 b2 b1 b0).getLsbD 6 = b6 ∧
      (ofBits b7 b6 b5 b4 b3 b2 b1 b0).getLsbD 5 = b5 ∧ (ofBits b7 b6 b5 b4 b3 b2 b1 b0).getLsbD 4 = b4 ∧
      (ofBits b7 b6 b5 b4 b3 b2 b1 b0).getLsbD 3 = b3 ∧ (ofBits b7 b6 b5 b4 b3 b2 b1 b0).getLsbD 2 = b2 ∧
      (ofBits b7 b6 b5 b4 b3 b2 b1 b0).getLsbD 1 = b1 ∧ (ofBits b7 b6 b5 b4 b3 b2 b1 b0).getLsbD 0 = b0 := by
  simp only [ofBits, BitVec.getLsbD_append]
  simp

/-- POP PSW takes from the flag byte what PUSH PSW put there, whatever bit 3 is (R31). -/
theorem ofByte_toByte (f : Flags) (bit3 : Bool) : Flags.ofByte (f.toByte bit3) = f := by
  obtain ⟨b7, b6, b5, b4, -, b2, b1, b0⟩ := ofBits_getLsbD f.s f.z f.k f.ac bit3 f.p f.v f.cy
  simp only [Flags.ofByte, Flags.toByte, b7, b6, b5, b4, b2, b1, b0]

/-- Drawing a free bit changes nothing of the processor, and stores nothing. -/
theorem processorKept_openBit (o : OpenBit) : ProcessorKept s (openBit o s).2 := by
  constructor <;> simp

theorem storesOnly_openBit (o : OpenBit) : StoresOnly s (openBit o s).2 [] :=
  .of_eq (by simp) (by simp) (by simp)

theorem openBit_fixed (s : State) :
    (openBit .zero s).1 = false ∧ (openBit .one s).1 = true ∧
      (openBit .draw s).1 = Config.freeBit s.env.fresh :=
  ⟨rfl, rfl, rfl⟩

/-- A push after an update that touches neither the processor nor memory is framed as the push alone. -/
theorem ProcessorKept.frame_push16 (kept : ProcessorKept s u) (stores : StoresOnly s u [])
    (v : Word) (h : storesOf i s = [s.sp - 1, s.sp - 2]) (m : (footprint i).sp = true) :
    Frame i s (push16 u v) := by
  have writes := (kept.trans (processorKept_memWrite (u.sp - 1) (hiByte v))).trans
    (processorKept_memWrite (u.sp - 2) (loByte v))
  have only := (stores.trans (storesOnly_memWrite (u.sp - 1) (hiByte v))).trans
    (storesOnly_memWrite (u.sp - 2) (loByte v))
  have framed : Frame i s _ := writes.frame only (by simp [h, kept.sp])
  exact framed.setPair (q := .sp) (u.sp - 2) (by simp [pairRegs]) fun _ => m

theorem pushPsw_completes (s : State) :
    Completes .pushPsw s fun t => ∃ f : Byte, Pushed s t (mkWord s.regs.a f) ∧
      f.getLsbD 7 = s.flags.s ∧ f.getLsbD 6 = s.flags.z ∧ f.getLsbD 5 = s.flags.k ∧
      f.getLsbD 4 = s.flags.ac ∧ f.getLsbD 2 = s.flags.p ∧ f.getLsbD 1 = s.flags.v ∧
      f.getLsbD 0 = s.flags.cy ∧ (s.params.flagBit3 = .zero → f.getLsbD 3 = false) ∧
      (s.params.flagBit3 = .one → f.getLsbD 3 = true) ∧
      (s.params.flagBit3 = .draw → f.getLsbD 3 = Config.freeBit s.env.fresh) := by
  have kept := processorKept_openBit (s := s) s.params.flagBit3
  have stores := storesOnly_openBit (s := s) s.params.flagBit3
  have pushed (f : Byte) := (pushed_push16 _ (mkWord s.regs.a f)).earlier kept.sp stores
  obtain ⟨b7, b6, b5, b4, b3, b2, b1, b0⟩ := ofBits_getLsbD s.flags.s s.flags.z s.flags.k s.flags.ac
    (openBit s.params.flagBit3 s).1 s.flags.p s.flags.v s.flags.cy
  obtain ⟨zero, one, draw⟩ := openBit_fixed s
  exact ⟨_, rfl, kept.frame_push16 stores _ rfl rfl, _, pushed _, b7, b6, b5, b4, b2, b1, b0,
    fun e => b3.trans (e ▸ zero), fun e => b3.trans (e ▸ one), fun e => b3.trans (e ▸ draw)⟩

theorem popPsw_completes (s : State) :
    Completes .popPsw s fun t => t.sp = s.sp + 2 ∧
      t.regs.a = (memRead (memRead s s.sp).2 (s.sp + 1)).1 ∧
      t.flags = Flags.ofByte (memRead s s.sp).1 := by
  have frame : Frame .popPsw s { (pop16 s).2.setReg .a (hiByte (pop16 s).1) with
      flags := Flags.ofByte (loByte (pop16 s).1) } :=
    (flagsOnly_set _ _).frame_of_allFlags ((frame_pop16 rfl).setReg _ (by simp)) rfl
  exact ⟨_, rfl, frame, rfl, hiByte_mkWord _ _, congrArg Flags.ofByte (loByte_mkWord _ _)⟩

theorem Completes.mono {P Q : State → Prop} (h : Completes i s P) (pq : ∀ t, P t → Q t) :
    Completes i s Q :=
  let ⟨t, e, frame, p⟩ := h
  ⟨t, e, frame, pq t p⟩

/-- Settles O33: the flag byte's bits are the flags, on the way to the stack and back. -/
theorem pswHoldsAccumulatorAndFlags : Obligations.PswHoldsAccumulatorAndFlags := by
  refine fun s => ⟨encodes_one rfl rfl, encodes_one rfl rfl, pushPsw_completes s,
    (popPsw_completes s).mono ?_⟩
  rintro t ⟨sp, a, flags⟩
  rw [flags]
  exact ⟨sp, a, rfl, rfl, rfl, rfl, rfl, rfl, rfl⟩

/-! ## A pop takes back a push -/

/-- On a ram stack that the other master does not write, a pop answers the word pushed and puts SP back. -/
theorem pop16_of_pushed {v : Word} {ws : List Word} (h : Pushed s t v) (stores : StoresOnly s t ws)
    (h1 : s.kindAt (s.sp - 1) = .ram) (h2 : s.kindAt (s.sp - 2) = .ram)
    (d1 : s.sp - 1 ∉ s.dmaAddrs) (d2 : s.sp - 2 ∉ s.dmaAddrs) :
    (pop16 t).1 = v ∧ (pop16 t).2.sp = s.sp := by
  obtain ⟨sp, high, low, -⟩ := h
  have top : t.sp + 1 = s.sp - 1 := by rw [sp]; bv_omega
  have ram {a : Word} (k : s.kindAt a = .ram) : t.kindAt a = .ram := (stores.kindAt a).trans k
  have value : (pop16 t).1 = mkWord (t.peek (s.sp - 1)) (t.peek (s.sp - 2)) := by
    rw [← sp] at h2 d2 ⊢
    rw [← top] at h1 d1 ⊢
    exact pop16_quiet (.inl (ram h2)) (.inl (ram h1)) (stores.notMem_dmaAddrs d2)
      (stores.notMem_dmaAddrs d1)
  obtain ⟨highByte, -⟩ := stored_iff.1 (high d1)
  obtain ⟨lowByte, -⟩ := stored_iff.1 low
  rw [value, highByte h1, lowByte h2, mkWord_hiByte_loByte, pop16_sp, sp]
  exact ⟨rfl, by bv_omega⟩

theorem exec_next_inj {v : State} (e : exec i s = .next u) (f : exec i s = .next v) : u = v :=
  Host.Outcome.next.inj (e.symm.trans f)

/-- Settles O34: each pop takes back the word its push left, and writes it where it came from. -/
theorem popUndoesPush : Obligations.PopUndoesPush := by
  intro s h1 h2 d1 d2
  refine ⟨?pair, ?psw, ?call⟩
  case pair =>
    intro q q' _ n' t u push pop
    obtain rfl : push16 s (s.pair q) = t := exec_next_inj rfl push
    obtain rfl := exec_next_inj rfl pop
    obtain ⟨value, sp⟩ := pop16_of_pushed (pushed_push16 s (s.pair q)) (storesOnly_push16 _) h1 h2 d1 d2
    exact ⟨(pair_setPair _ q' _).trans value, (setPair_sp _ n').trans sp⟩
  case psw =>
    intro t u push pop
    have stores := storesOnly_openBit (s := s) s.params.flagBit3
    have kept := processorKept_openBit (s := s) s.params.flagBit3
    obtain rfl := exec_next_inj rfl push
    obtain rfl := exec_next_inj rfl pop
    obtain ⟨value, sp⟩ := pop16_of_pushed ((pushed_push16 _ _).earlier kept.sp stores)
      (stores.trans (storesOnly_push16 _)) h1 h2 d1 d2
    refine ⟨?regs, ?flags, sp⟩
    case regs =>
      rw [value, hiByte_mkWord]
      simp [State.setReg, Regs.set]
    case flags =>
      rw [value, loByte_mkWord, ofByte_toByte]
  case call =>
    intro t u a call ret
    obtain rfl : callTo a s = t := exec_next_inj rfl call
    obtain rfl : returnFrom (callTo a s) = u := exec_next_inj rfl ret
    obtain ⟨value, sp⟩ := pop16_of_pushed (pushed_callTo a s)
      ((storesOnly_push16 s.pc).after rfl rfl rfl) h1 h2 d1 d2
    exact ⟨value, sp, by simp, by simp⟩

end Sys2Proof.Machine
end

section
/-! SUPPORT. Arithmetic on pairs: DAD with its carry and signed overflow, DAD and RDEL together as a shift of 32 bits,
and the 16-bit counters (R237, R250, R259, R260). -/

namespace Sys2Proof.Machine

variable {s t u : State} {i : Instr} {P : State → Prop}

/-! ## What an execution that completes ends in -/

theorem Completes.of_exec (h : Completes i s P) (e : exec i s = .next t) : Frame i s t ∧ P t := by
  obtain ⟨u, e', frame, p⟩ := h
  obtain rfl := exec_next_inj e e'
  exact ⟨frame, p⟩

theorem CompletesIfAdmitted.of_exec {m : String} (h : CompletesIfAdmitted i m s P)
    (e : exec i s = .next t) : Frame i s t ∧ P t := by
  obtain ⟨admitted, refused⟩ := h
  cases ext10 : s.params.ext10 with
  | true => exact (admitted ext10).of_exec e
  | false =>
    rw [refused ext10] at e
    exact nomatch e

theorem Frame.reg {q : Reg} (h : Frame i s t) (n : q ∉ (footprint i).regs) : t.reg q = s.reg q :=
  let ⟨regs, _⟩ := h
  regs q n

/-! ## DAD -/

/-- The operands agree in sign and the result does not: the sum does not fit (R237). -/
theorem saddOverflow_eq_signs (x y : Word) :
    decide (x.getLsbD 15 = y.getLsbD 15 ∧ (x + y).getLsbD 15 ≠ x.getLsbD 15) =
      x.saddOverflow y := by
  rw [BitVec.saddOverflow_eq, BitVec.msb_eq_getLsbD_last, BitVec.msb_eq_getLsbD_last,
    BitVec.msb_eq_getLsbD_last]
  cases x.getLsbD 15 <;> cases y.getLsbD 15 <;> cases (x + y).getLsbD 15 <;> rfl

theorem saddOverflow_iff (x y : Word) :
    x.saddOverflow y = true ↔ x.toInt + y.toInt < -32768 ∨ 32767 < x.toInt + y.toInt := by
  simp only [BitVec.saddOverflow, Bool.or_eq_true, decide_eq_true_iff]
  omega

theorem exec_dad (q : Pair) (s : State) :
    exec (.dad q) s = .next (((s.setPair .hl (s.hl + s.pair q)).setCy
      (decide (s.hl.toNat + (s.pair q).toNat ≥ 65536))).setVK (s.hl.saddOverflow (s.pair q))
        s.flags.k) := by
  rw [← saddOverflow_eq_signs]
  rfl

theorem dad_frame (q : Pair) (s : State) (res : Word) (out v : Bool) :
    Frame (.dad q) s (((s.setPair .hl res).setCy out).setVK v s.flags.k) :=
  ((frame_refl.setPair res (by simp [pairRegs]) (by simp [isSp])).setCy out (by simp)).setVK rfl
    (by simp) fun _ => rfl

/-- Settles O49: HL takes the 16-bit sum, CY and V its unsigned and signed overflow. -/
theorem dadAddsAPair : Obligations.DadAddsAPair := by
  intro s q
  refine ⟨?bytes, _, exec_dad q s, dad_frame q s _ _ _, ?_⟩
  case bytes => cases q <;> exact encodes_one rfl rfl
  obtain ⟨hl, cy, free⟩ := pairShift_written s .hl (s.hl + s.pair q)
    (decide (s.hl.toNat + (s.pair q).toNat ≥ 65536)) (s.hl.saddOverflow (s.pair q)) s.flags.k
  refine ⟨(congrArg BitVec.toNat hl).trans (BitVec.toNat_add _ _),
    (Bool.eq_iff_iff.1 cy).trans decide_eq_true_iff, fun vkExact => ?v, free⟩
  case v =>
    obtain ⟨v, -⟩ := setVK_flags_of_exact ((s.setPair .hl _).setCy _) _ s.flags.k vkExact
    rw [v]
    exact saddOverflow_iff _ _

theorem toNat_eq_ite {b : Bool} {p : Prop} [Decidable p] (h : b = true ↔ p) :
    b.toNat = if p then 1 else 0 := by
  cases b with
  | true => exact (if_pos (h.1 rfl)).symm
  | false => exact (if_neg fun holds => nomatch h.2 holds).symm

/-- Settles O53: DAD H leaves the bit between the halves in CY, and RDEL takes it from there. -/
theorem dadThenRdelShifts32Bits : Obligations.DadThenRdelShifts32Bits := by
  intro s t u dad rdel
  obtain ⟨-, dadWrites⟩ := dadAddsAPair s .hl
  obtain ⟨dadFrame, hl, carry, -⟩ := dadWrites.of_exec dad
  obtain ⟨rdelFrame, de, out, -⟩ := (rdel_completesIfAdmitted t).of_exec rdel
  have deKept : t.de = s.de :=
    congrArg₂ mkWord (dadFrame.reg (q := .d) (by simp)) (dadFrame.reg (q := .e) (by simp))
  have hlKept : u.hl = t.hl :=
    congrArg₂ mkWord (rdelFrame.reg (q := .h) (by simp)) (rdelFrame.reg (q := .l) (by simp))
  have pair : s.pair .hl = s.hl := rfl
  rw [pair] at hl carry
  rw [deKept] at de out
  have deBound := s.de.isLt
  have hlBound := s.hl.isLt
  rw [de, hlKept, hl, toNat_eq_ite carry, toNat_eq_ite out]
  split <;> split <;> omega

/-! ## INX and DCX -/

/-- What a 16-bit counter does, from the value it writes and its row of R37, where K is the only cell. -/
theorem countPair_completes {q : Pair} {res : Word} {k : Bool} {value : Nat} {wrap : Prop}
    (row : footprint i = { regs := pairRegs q, sp := isSp q, flags := [.k] })
    (e : exec i s = .next ((s.setPair q res).setVK s.flags.v k))
    (hres : res.toNat = value) (hk : k = true ↔ wrap) :
    Completes i s fun t => (t.pair q).toNat = value ∧
      (s.params.vkExact = true → (t.flags.k = true ↔ wrap)) ∧ VkFree s t := by
  have frame : Frame i s ((s.setPair q res).setVK s.flags.v k) :=
    (frame_refl.setPair res (by simp [row]) (by simp [row])).setVK (by simp [row])
      (fun _ => by simp) (by simp [row])
  refine ⟨_, e, frame, ?value, fun vkExact => ?k, vkFree_setVK (setPair_params s q res) _ _⟩
  case value => rw [pair_setVK, pair_setPair, hres]
  case k =>
    obtain ⟨-, written⟩ := setVK_flags_of_exact (s.setPair q res) s.flags.v k
      (by rwa [setPair_params])
    rw [written, hk]

/-- Settles O55: a counter wraps exactly where its new value is 0000H upwards or FFFFH downwards. -/
theorem pairCountersWrap : Obligations.PairCountersWrap := by
  intro s q
  refine ⟨⟨?inxBytes, countPair_completes rfl rfl ?up ?upWraps⟩,
    ⟨?dcxBytes, countPair_completes rfl rfl ?down ?downWraps⟩⟩
  case inxBytes | dcxBytes => cases q <;> exact encodes_one rfl rfl
  case up | down => bv_omega
  case upWraps | downWraps =>
    rw [decide_eq_true_iff]
    bv_omega

end Sys2Proof.Machine
end

section
/-! SUPPORT. Special and control instructions (48_special.md, 49_control.md): DAA is one addition of its correction and
completes decimal addition; RIM, SIM, EI, DI and HLT move bits between A and the control state (R265 to R278). -/

namespace Sys2Proof.Machine

variable {s t : State} {i : Instr}

/-! ## DAA -/

/-- The digits' corrections: 6 where AC or the low digit asks for it, 60H where CY or the byte does (R265). -/
def daaLow (a : Byte) (ac : Bool) : Nat := if ac = true ∨ 9 < a.toNat % 16 then 6 else 0

def daaHigh (a : Byte) (cy : Bool) : Nat := if cy = true ∨ 153 < a.toNat then 96 else 0

theorem daaCorrection_fst (a : Byte) (ac cy : Bool) :
    (daaCorrection a ac cy).1 = BitVec.ofNat 8 (daaLow a ac + daaHigh a cy) := by
  unfold daaCorrection daaLow daaHigh
  split <;> split <;> rfl

theorem daaCorrection_snd_iff (a : Byte) (ac cy : Bool) :
    (daaCorrection a ac cy).2 = true ↔ cy = true ∨ 153 < a.toNat := by
  have carry : (daaCorrection a ac cy).2 = if cy = true ∨ 153 < a.toNat then true else cy :=
    apply_ite Prod.snd _ _ _
  rw [carry]
  split
  · next high => exact iff_of_true rfl high
  · next low => exact ⟨.inl, fun high => absurd high low⟩

/-- Settles O56: the correction is added to A at once, and CY is the correction's own. -/
theorem daaAddsItsCorrection : Obligations.DaaAddsItsCorrection := by
  refine ⟨encodes_one rfl rfl, fun s => ⟨_, rfl,
    frame_accumulator (.refl s) rfl (flagsOnly_arithFlags _ _ _), ?_⟩⟩
  simp only [arithFlags_regs, setReg_a, arithFlags_flags_cy]
  rw [daaCorrection_fst]
  refine ⟨?sum, daaCorrection_snd_iff _ _ _, sumFlags_arithFlags (setReg_params s .a _) _ _ _ _⟩
  case sum =>
    rw [add8_res_toNat, BitVec.toNat_ofNat, Bool.toNat_false, daaLow, daaHigh]
    omega

theorem isPackedDecimal_iff (v : Byte) :
    isPackedDecimal v = true ↔ v.toNat % 16 ≤ 9 ∧ v.toNat / 16 ≤ 9 := by
  rw [isPackedDecimal, Bool.and_eq_true, decide_eq_true_iff, decide_eq_true_iff]

/-- Settles O57: the binary sum of the digits and its carries tell DAA which digits to correct. -/
theorem daaCompletesDecimalAddition : Obligations.DaaCompletesDecimalAddition := by
  intro s t u y ha hy aci daa
  obtain ⟨-, -, -, -, -, addsImmediate⟩ := additionsAddToA s
  obtain ⟨-, adds⟩ := addsImmediate y
  obtain ⟨-, sum, carry, -, half, -⟩ := adds.of_exec aci
  obtain ⟨-, corrects⟩ := daaAddsItsCorrection
  obtain ⟨-, corrected, out, -⟩ := (corrects t).of_exec daa
  rw [isPackedDecimal_iff] at ha hy ⊢
  rw [toNat_eq_ite out, packedDecimal, packedDecimal, packedDecimal]
  simp only [carry, half] at corrected ⊢
  have bound := s.flags.cy.toNat_le
  have decided : u.regs.a.toNat = _ := corrected
  split at decided <;> split at decided <;> split <;> omega

/-! ## RIM and SIM -/

/-- Bit 3 of RIM and what becomes of the pending state, by TRAP_RIM_QUIRK (R269, R331). -/
theorem rimIe_cases (s : State) :
    ((s.intr.trapRimPending = false ∨ s.params.trapRim = .currentIE) ∧ rimIe s = (s.intr.ie, s)) ∨
      (s.intr.trapRimPending = true ∧ s.params.trapRim = .savedIE ∧
        rimIe s = (s.intr.ieBeforeTrap, { s with intr := { s.intr with trapRimPending := false } })) ∨
      (s.intr.trapRimPending = true ∧ s.params.trapRim = .draw ∧
        rimIe s = drawBit { s with intr := { s.intr with trapRimPending := false } }) := by
  cases p : s.intr.trapRimPending with
  | false => exact .inl ⟨.inl rfl, by simp [rimIe, p]⟩
  | true => cases q : s.params.trapRim <;> simp [rimIe, p, q]

theorem rimIe_frame (s : State) : Frame .rim s (rimIe s).2 := by
  have ended : Frame .rim s { s with intr := { s.intr with trapRimPending := false } } := by
    simp [Frame, State.reg, State.peek]
  rcases rimIe_cases s with ⟨-, e⟩ | ⟨-, -, e⟩ | ⟨-, -, e⟩ <;> rw [e]
  · exact frame_refl
  · exact ended
  · exact (flagsOnly_drawBit _).frame ended fun _ _ => rfl

/-- Settles O58: the byte is put together bit by bit, and bit 3 follows the parameter. -/
theorem rimReadsInterruptState : Obligations.RimReadsInterruptState := by
  refine ⟨encodes_one rfl rfl, fun s => ⟨_, rfl, (rimIe_frame s).setReg _ (by simp), ?_⟩⟩
  obtain ⟨b7, b6, b5, b4, b3, b2, b1, b0⟩ := ofBits_getLsbD s.env.pins.rcd s.intr.r75
    s.env.pins.pin8 s.env.pins.pin9 (rimIe s).1 s.intr.m75 s.intr.m65 s.intr.m55
  simp only [setReg_a, setReg_intr, b3]
  refine ⟨b7, b6, b5, b4, b2, b1, b0, ?_⟩
  rcases rimIe_cases s with ⟨plain, e⟩ | ⟨pending, quirk, e⟩ | ⟨pending, quirk, e⟩ <;> rw [e]
  · refine ⟨fun idle => ⟨rfl, idle⟩, fun pending quirk => ?_, fun pending quirk => ?_,
      fun _ => ⟨rfl, rfl⟩⟩
    all_goals exact absurd plain (by simp [pending, quirk])
  · simp [pending, quirk]
  · simp [pending, quirk, drawBit]

/-- Settles O59: each part is a choice on one bit of A between a new bit and the old one. -/
theorem simWritesInItsThreeParts : Obligations.SimWritesInItsThreeParts := by
  refine ⟨encodes_one rfl rfl, fun s => ⟨_, rfl, ?frame, ?parts⟩⟩
  case frame => simp [Frame, State.reg, State.peek]
  case parts =>
    refine ⟨fun enabled => ?_, fun disabled => ?_, fun cancel => ?_, fun keep => ?_,
      fun output => ?_, fun quiet => ?_⟩
    all_goals simp only [*, Bool.false_eq_true, if_true, if_false, and_self]

/-! ## Carry, complement and control -/

/-- What CMA, STC and CMC do beside their own effect: V and K by their rule (R39). -/
theorem keepVK_completes {P : State → Prop} (row : (footprint i).flagRow = true)
    (e : exec i s = .next t.keepVK) (frame : Frame i s t) (p : P t.keepVK) :
    Completes i s fun u => P u ∧ VkFree s u :=
  ⟨_, e, frame.keepVK row, p, vkFree_setVK frame.params _ _⟩

theorem cma_completes (s : State) :
    Completes .cma s fun t => t.regs.a.toNat = 255 - s.regs.a.toNat ∧ VkFree s t := by
  refine keepVK_completes rfl rfl (frame_refl.setReg _ (by simp)) ?_
  rw [keepVK_regs, setReg_a, complement_toNat]

theorem hlt_completes (s : State) : Completes .hlt s fun t => t.halted = true :=
  ⟨_, rfl, by simp [Frame, State.reg, State.peek], rfl⟩

theorem ei_completes (s : State) :
    Completes .ei s fun t => t.intr.ie = true ∧ t.intr.eiDelay = true :=
  ⟨_, rfl, by simp [Frame, State.reg, State.peek], rfl, rfl⟩

theorem di_completes (s : State) : Completes .di s fun t => t.intr.ie = false :=
  ⟨_, rfl, by simp [Frame, State.reg, State.peek], rfl⟩

/-- Settles O60: each writes its one register, flag or control bit. -/
theorem accumulatorCarryAndControl : Obligations.AccumulatorCarryAndControl := by
  refine ⟨⟨?_, ?_, ?_, ?_, ?_, ?_, ?_⟩, fun s => ⟨cma_completes s, ?stc, ?cmc,
    ⟨s, rfl, frame_refl, rfl⟩, hlt_completes s, ei_completes s, di_completes s⟩⟩
  case stc | cmc =>
    exact keepVK_completes rfl rfl (frame_refl.setCy _ (by simp)) (keepVK_flags_cy _)
  all_goals exact encodes_one rfl rfl

end Sys2Proof.Machine
end

section
/-! SUPPORT. Every instruction at once: each completes in its frame, the ten unnamed ones where EXT10 is `admitted`, and
each with a row in R37's table ends by writing V and K (R9, R39, R101). -/

namespace Sys2Proof.Machine

variable {s t u : State} {i : Instr} {P : State → Prop}

/-! ## Frames -/

/-- The instruction answers a next state, and leaves alone there what it may not write. -/
def RunsInFrame (i : Instr) (s : State) : Prop := ∃ t, exec i s = .next t ∧ Frame i s t

theorem Completes.runsInFrame (h : Completes i s P) : RunsInFrame i s :=
  let ⟨t, e, frame, _⟩ := h
  ⟨t, e, frame⟩

theorem CompletesIfAdmitted.runsInFrame {m : String} (h : CompletesIfAdmitted i m s P)
    (admitted : s.params.ext10 = true) : RunsInFrame i s :=
  let ⟨completes, _⟩ := h
  (completes admitted).runsInFrame

/-- A call in its row of R70 and its row of R25. -/
theorem frame_callIf {test : Bool} (a : Word)
    (row : accesses i s = if test then pushes s else []) (msp : (footprint i).sp = true)
    (mpc : (footprint i).pc = true) : Frame i s (callIf test a s) := by
  cases test with
  | true => exact frame_callTo a (by rw [storesOf, row]; rfl) msp mpc
  | false => exact frame_refl

theorem frame_returnIf (test : Bool) (msp : (footprint i).sp = true)
    (mpc : (footprint i).pc = true) : Frame i s (returnIf test s) := by
  cases test with
  | true => exact frame_returnFrom msp mpc
  | false => exact frame_refl

/-- Every instruction runs in its frame, one of the ten where EXT10 is `admitted` (R9, R25, R37, R101). -/
theorem runsInFrame (i : Instr) (s : State)
    (admitted : (footprint i).ext10 = true → s.params.ext10 = true) : RunsInFrame i s := by
  cases i with
  | movRR | mviR => exact ⟨_, rfl, frame_refl.setReg _ (by simp)⟩
  | movRM => exact ⟨_, rfl, (frame_memRead s.hl).setReg _ (by simp)⟩
  | movMR | mviM => exact ⟨_, rfl, frame_memWrite _ (by simp)⟩
  | lxi => exact ⟨_, rfl, frame_refl.setPair _ (by simp) (by simp)⟩
  | lda a => exact (lda_completes s a).runsInFrame
  | sta a => exact (sta_completes s a).runsInFrame
  | lhld a => exact (lhld_completes s a).runsInFrame
  | shld a => exact (shld_completes s a).runsInFrame
  | ldax q => exact (ldax_completes s q).runsInFrame
  | stax q => exact (stax_completes s q).runsInFrame
  | xchg => exact (xchg_completes s).runsInFrame
  | sphl => exact (sphl_completes s).runsInFrame
  | ldhi v => exact (ldhi_completesIfAdmitted s v).runsInFrame (admitted rfl)
  | ldsi v => exact (ldsi_completesIfAdmitted s v).runsInFrame (admitted rfl)
  | lhlx => exact (lhlx_completesIfAdmitted s).runsInFrame (admitted rfl)
  | shlx => exact (shlx_completesIfAdmitted s).runsInFrame (admitted rfl)
  | push q => exact (push_completes q s).runsInFrame
  | pushPsw => exact (pushPsw_completes s).runsInFrame
  | pop q => exact ⟨_, rfl, frame_pop q s⟩
  | popPsw => exact (popPsw_completes s).runsInFrame
  | xthl => exact (xthl_completes s).runsInFrame
  | jmp | pchl => exact ⟨_, rfl, frame_refl.setPc _ rfl⟩
  | jnz | jz | jnc | jc | jpo | jpe | jp | jm => exact ⟨_, rfl, frame_jumpIf _ _ rfl⟩
  | jnk a => exact (jnk_completesIfAdmitted a s).runsInFrame (admitted rfl)
  | jk a => exact (jk_completesIfAdmitted a s).runsInFrame (admitted rfl)
  | call | rst => exact ⟨_, rfl, frame_callTo _ rfl rfl rfl⟩
  | cnz | cz | cnc | cc | cpo | cpe | cp | cm => exact ⟨_, rfl, frame_callIf _ rfl rfl rfl⟩
  | rstv => exact (rstv_completesIfAdmitted s).runsInFrame (admitted rfl)
  | ret => exact ⟨_, rfl, frame_returnFrom rfl rfl⟩
  | rnz | rz | rnc | rc | rpo | rpe | rp | rm => exact ⟨_, rfl, frame_returnIf _ rfl rfl⟩
  | inPort p => exact (inPort_completes p s).runsInFrame
  | outPort p => exact (outPort_completes p s).runsInFrame
  | addR | adi | adcR | aci => exact Completes.runsInFrame (addsToA_of_exec (.refl s) rfl rfl)
  | addM | adcM => exact Completes.runsInFrame (addsToA_of_exec (.memRead s s.hl) rfl rfl)
  | subR | sui | sbbR | sbi => exact Completes.runsInFrame (subtractsFromA_of_exec (.refl s) rfl rfl)
  | subM | sbbM => exact Completes.runsInFrame (subtractsFromA_of_exec (.memRead s s.hl) rfl rfl)
  | anaR | ani => exact Completes.runsInFrame (logicOnA_and (.refl s) rfl rfl)
  | anaM => exact Completes.runsInFrame (logicOnA_and (.memRead s s.hl) rfl rfl)
  | xraR | xri => exact Completes.runsInFrame (logicOnA_xor (.refl s) rfl rfl)
  | xraM => exact Completes.runsInFrame (logicOnA_xor (.memRead s s.hl) rfl rfl)
  | oraR | ori => exact Completes.runsInFrame (logicOnA_or (.refl s) rfl rfl)
  | oraM => exact Completes.runsInFrame (logicOnA_or (.memRead s s.hl) rfl rfl)
  | cmpR | cpi => exact Completes.runsInFrame (comparesA_of_exec (.refl s) rfl rfl)
  | cmpM => exact Completes.runsInFrame (comparesA_of_exec (.memRead s s.hl) rfl rfl)
  | dad q => exact ⟨_, exec_dad q s, dad_frame q s _ _ _⟩
  | dsub =>
    exact ⟨_, (exec_dsub s).trans (ifAdmitted_next.2 ⟨admitted rfl, rfl⟩), dsub_frame s _ _⟩
  | rlc | rrc | ral | rar =>
    exact ⟨_, rfl, ((frame_refl.setReg _ (by simp)).setCy _ (by simp)).keepVK rfl⟩
  | arhl => exact (arhl_completesIfAdmitted s).runsInFrame (admitted rfl)
  | rdel => exact (rdel_completesIfAdmitted s).runsInFrame (admitted rfl)
  | inrR | dcrR => exact ⟨_, rfl, (frame_refl.setReg _ (by simp)).arithFlags_keepCy rfl⟩
  | inrM | dcrM => exact ⟨_, rfl, (frame_readThenStore _ rfl).arithFlags_keepCy rfl⟩
  | inx | dcx => exact (countPair_completes rfl rfl rfl .rfl).runsInFrame
  | daa =>
    obtain ⟨-, daa⟩ := daaAddsItsCorrection
    exact (daa s).runsInFrame
  | cma => exact (cma_completes s).runsInFrame
  | stc | cmc => exact ⟨_, rfl, (frame_refl.setCy _ (by simp)).keepVK rfl⟩
  | rim =>
    obtain ⟨-, rim⟩ := rimReadsInterruptState
    exact (rim s).runsInFrame
  | sim =>
    obtain ⟨-, sim⟩ := simWritesInItsThreeParts
    exact (sim s).runsInFrame
  | nop => exact ⟨s, rfl, frame_refl⟩
  | hlt => exact (hlt_completes s).runsInFrame
  | ei => exact (ei_completes s).runsInFrame
  | di => exact (di_completes s).runsInFrame

/-- Settles O6: the frames of all instructions. -/
theorem everyInstructionCompletesInItsFrame : Obligations.EveryInstructionCompletesInItsFrame :=
  runsInFrame

/-- Where EXT10 is `refused`, each of the ten is refused by a name (R101). -/
theorem exec_refused (h : (footprint i).ext10 = true) (refused : s.params.ext10 = false) :
    ∃ m, exec i s = .refused (.ext10 m) := by
  cases i with
  | ldhi | ldsi | lhlx | shlx | jnk | jk | rstv | dsub | arhl | rdel =>
    exact ⟨_, ifAdmitted_refused refused⟩
  | _ => exact nomatch h

/-- What an instruction answers. -/
theorem exec_cases (i : Instr) (s : State) :
    RunsInFrame i s ∨ (footprint i).ext10 = true ∧ s.params.ext10 = false ∧
      ∃ m, exec i s = .refused (.ext10 m) := by
  by_cases admitted : (footprint i).ext10 = true → s.params.ext10 = true
  · exact .inl (runsInFrame i s admitted)
  · obtain ⟨ten, refused⟩ := Classical.not_imp.1 admitted
    rw [Bool.not_eq_true] at refused
    exact .inr ⟨ten, refused, exec_refused ten refused⟩

theorem exec_frame (e : exec i s = .next t) : Frame i s t := by
  rcases exec_cases i s with ⟨u, e', frame⟩ | ⟨-, -, m, e'⟩ <;> rw [e] at e'
  · obtain rfl := Host.Outcome.next.inj e'
    exact frame
  · exact nomatch e'

/-! ## V and K -/

/-- From s to t the last thing written was V and K, by their rule. -/
def EndsInVK (s t : State) : Prop :=
  ∃ (u : State) (v k : Bool), t = u.setVK v k ∧ u.params = s.params ∧ s.env.fresh ≤ u.env.fresh

theorem endsInVK_setVK {v k : Bool} (hp : u.params = s.params) (le : s.env.fresh ≤ u.env.fresh) :
    EndsInVK s (u.setVK v k) := ⟨u, v, k, rfl, hp, le⟩

theorem OperandRead.endsInVK_add (read : OperandRead s u) (y : Byte) (cin : Bool) :
    EndsInVK s (accAdd u y cin) := endsInVK_setVK read.params read.fresh

theorem OperandRead.endsInVK_sub (read : OperandRead s u) (y : Byte) (bin : Bool) :
    EndsInVK s (accSub u y bin) := endsInVK_setVK read.params read.fresh

theorem OperandRead.endsInVK_cmp (read : OperandRead s u) (y : Byte) : EndsInVK s (accCmp u y) :=
  endsInVK_setVK read.params read.fresh

theorem OperandRead.endsInVK_logic (read : OperandRead s u) (res : Byte) (isAnd : Bool) :
    EndsInVK s ((u.setReg .a res).logicFlags res isAnd) :=
  have drawn := flagsOnly_logicBeforeVK (u.setReg .a res) res isAnd
  endsInVK_setVK (drawn.params.trans read.params) (read.fresh.trans drawn.fresh_le)

/-- Every instruction with a row in R37's table but POP PSW ends by writing V and K (R39). -/
theorem endsInVK_of_flagRow (row : (footprint i).flagRow = true) (n : i ≠ .popPsw)
    (e : exec i s = .next t) : EndsInVK s t := by
  cases i with
  | popPsw => exact absurd rfl n
  | addR | adi | adcR | aci =>
    obtain rfl := exec_next_inj rfl e
    exact (OperandRead.refl s).endsInVK_add _ _
  | addM | adcM =>
    obtain rfl := exec_next_inj rfl e
    exact (OperandRead.memRead s s.hl).endsInVK_add _ _
  | subR | sui | sbbR | sbi =>
    obtain rfl := exec_next_inj rfl e
    exact (OperandRead.refl s).endsInVK_sub _ _
  | subM | sbbM =>
    obtain rfl := exec_next_inj rfl e
    exact (OperandRead.memRead s s.hl).endsInVK_sub _ _
  | cmpR | cpi =>
    obtain rfl := exec_next_inj rfl e
    exact (OperandRead.refl s).endsInVK_cmp _
  | cmpM =>
    obtain rfl := exec_next_inj rfl e
    exact (OperandRead.memRead s s.hl).endsInVK_cmp _
  | anaR | ani | xraR | xri | oraR | ori =>
    obtain rfl := exec_next_inj rfl e
    exact (OperandRead.refl s).endsInVK_logic _ _
  | anaM | xraM | oraM =>
    obtain rfl := exec_next_inj rfl e
    exact (OperandRead.memRead s s.hl).endsInVK_logic _ _
  | dad q =>
    obtain rfl := exec_next_inj rfl e
    exact endsInVK_setVK rfl le_rfl
  | inx q | dcx q =>
    obtain rfl := exec_next_inj rfl e
    exact endsInVK_setVK (by simp) (by simp)
  | rlc | rrc | ral | rar | inrR | dcrR | daa | cma | stc | cmc =>
    obtain rfl := exec_next_inj rfl e
    exact endsInVK_setVK rfl le_rfl
  | inrM | dcrM =>
    obtain rfl := exec_next_inj rfl e
    exact endsInVK_setVK (by simp) (by simpa using fresh_le_memRead s s.hl)
  | dsub =>
    obtain ⟨-, rfl⟩ := ifAdmitted_next.1 e
    exact endsInVK_setVK rfl (Nat.le_add_right _ 3)
  | arhl | rdel =>
    obtain ⟨-, rfl⟩ := ifAdmitted_next.1 e
    exact endsInVK_setVK rfl le_rfl
  | _ => exact nomatch row

/-- Settles O44: V and K are drawn last, after whatever else the instruction draws. -/
theorem freeOverflowAndAuxiliarySign : Obligations.FreeOverflowAndAuxiliarySign := by
  intro i s t free row n e
  obtain ⟨u, v, k, rfl, hp, le⟩ := endsInVK_of_flagRow row n e
  obtain ⟨hv, hk, hfresh⟩ := setVK_free u (hp ▸ free) v k
  rw [hv, hk, hfresh]
  exact ⟨rfl, rfl, Nat.add_le_add_right le 2⟩

end Sys2Proof.Machine
end

section
/-! SUPPORT. What an instruction does on the bus: the accesses of R70's table, the bytes it may store to, and the
canonical form of memory, carried along the chain of bus transfers that the instruction is made of (R64 to R73). -/

namespace Sys2Proof.Machine

variable {s t u : State} {i : Instr} {as bs : List Access} {ws vs : List Word}

/-! ## Runs of bus transfers -/

/-- From s to t memory changed only at ws and where the other master writes, and stayed canonical. -/
structure MemRun (s t : State) (ws : List Word) : Prop where
  stores : StoresOnly s t ws
  wf : s.mem.wf = true → t.mem.wf = true

/-- From s to t the processor made these accesses, stored where they say, and memory stayed canonical. -/
structure BusRun (s t : State) (as : List Access) : Prop where
  transfers : Transfers s t as
  memory : MemRun s t (as.filterMap Access.stored)

/-- No field that bus transfers change is different in t. -/
structure SameBus (s t : State) : Prop where
  mem : t.mem = s.mem
  params : t.params = s.params
  trace : t.env.trace = s.env.trace
  busIn : t.env.busIn = s.env.busIn
  holds : t.env.holds = s.env.holds

theorem MemRun.trans (h : MemRun s t ws) (g : MemRun t u vs) : MemRun s u (ws ++ vs) :=
  ⟨h.stores.trans g.stores, g.wf ∘ h.wf⟩

theorem BusRun.trans (h : BusRun s t as) (g : BusRun t u bs) : BusRun s u (as ++ bs) :=
  ⟨h.transfers.trans g.transfers, List.filterMap_append ▸ h.memory.trans g.memory⟩

theorem SameBus.trans (h : SameBus s t) (g : SameBus t u) : SameBus s u :=
  ⟨g.mem.trans h.mem, g.params.trans h.params, g.trace.trans h.trace, g.busIn.trans h.busIn,
    g.holds.trans h.holds⟩

theorem SameBus.memRun (h : SameBus s t) : MemRun s t [] :=
  ⟨.of_eq h.params h.mem h.holds, wf_of_mem_eq h.mem⟩

theorem SameBus.busRun (h : SameBus s t) : BusRun s t [] :=
  ⟨transfers_of_eq h.params h.trace h.busIn h.holds, h.memRun⟩

theorem BusRun.after (h : BusRun s t as) (g : SameBus t u) : BusRun s u as := by
  simpa using h.trans g.busRun

theorem BusRun.before (h : BusRun t u as) (g : SameBus s t) : BusRun s u as :=
  g.busRun.trans h

theorem busRun_memRead (a : Word) : BusRun s (memRead s a).2 [.read a] :=
  ⟨transfers_memRead a, storesOnly_memRead a, memRead_wf a⟩

theorem busRun_memWrite (a : Word) (v : Byte) : BusRun s (memWrite s a v) [.write a] :=
  ⟨transfers_memWrite a v, storesOnly_memWrite a v, memWrite_wf a v⟩

theorem busRun_memRead16 (a : Word) : BusRun s (memRead16 s a).2 [.read a, .read (a + 1)] :=
  (busRun_memRead a).trans (busRun_memRead (a + 1))

theorem busRun_memWrite16 (a v : Word) :
    BusRun s (memWrite16 s a v) [.write a, .write (a + 1)] :=
  (busRun_memWrite a _).trans (busRun_memWrite (a + 1) _)

theorem busRun_ioRead (p : Byte) : BusRun s (ioRead s p).2 [.portIn p] :=
  ⟨transfers_ioRead p, storesOnly_ioRead p, fun w => by simpa [ioRead] using atCycle_wf w⟩

theorem busRun_ioWrite (p v : Byte) : BusRun s (ioWrite s p v) [.portOut p] :=
  ⟨transfers_ioWrite p v, storesOnly_ioWrite p v, fun w => by simpa [ioWrite] using atCycle_wf w⟩

theorem busRun_push16 (v : Word) : BusRun s (push16 s v) (pushes s) :=
  ⟨transfers_push16 v, storesOnly_push16 v, push16_wf v⟩

theorem busRun_pop16 : BusRun s (pop16 s).2 (pops s) :=
  ⟨transfers_pop16, storesOnly_pop16, pop16_wf⟩

/-! ## Updates the bus does not see -/

theorem sameBus_setReg (s : State) (r : Reg) (v : Byte) : SameBus s (s.setReg r v) := by
  constructor <;> rfl

theorem sameBus_setPair (s : State) (q : Pair) (v : Word) : SameBus s (s.setPair q v) := by
  cases q <;> constructor <;> rfl

theorem sameBus_setPc (s : State) (v : Word) : SameBus s (s.setPc v) := by
  constructor <;> rfl

theorem FlagsOnly.sameBus (h : FlagsOnly s t) : SameBus s t := by
  obtain ⟨_, _, _, rfl⟩ := h
  constructor <;> rfl

/-- V and K, and by the same rule the flags of an addition, after any other update the bus does not see. -/
theorem SameBus.setVK (h : SameBus s t) (v k : Bool) : SameBus s (t.setVK v k) :=
  h.trans (flagsOnly_setVK t v k).sameBus

theorem sameBus_accAdd (s : State) (y : Byte) (c : Bool) : SameBus s (accAdd s y c) :=
  (sameBus_setReg s .a _).trans (flagsOnly_arithFlags _ _ _).sameBus

theorem sameBus_accSub (s : State) (y : Byte) (c : Bool) : SameBus s (accSub s y c) :=
  (sameBus_setReg s .a _).trans (flagsOnly_arithFlags _ _ _).sameBus

theorem sameBus_accCmp (s : State) (y : Byte) : SameBus s (accCmp s y) :=
  (flagsOnly_arithFlags s _ _).sameBus

theorem sameBus_logic (s : State) (res : Byte) (isAnd : Bool) :
    SameBus s ((s.setReg .a res).logicFlags res isAnd) :=
  (sameBus_setReg s .a _).trans (flagsOnly_logicFlags _ _ _).sameBus

theorem sameBus_jumpIf (test : Bool) (a : Word) (s : State) : SameBus s (jumpIf test a s) := by
  cases test <;> constructor <;> rfl

theorem sameBus_rimIe (s : State) : SameBus s (rimIe s).2 := by
  rcases rimIe_cases s with ⟨-, e⟩ | ⟨-, -, e⟩ | ⟨-, -, e⟩ <;> rw [e] <;> constructor <;> rfl

/-! ## Calls and returns -/

theorem busRun_callTo (a : Word) (s : State) : BusRun s (callTo a s) (pushes s) :=
  (busRun_push16 s.pc).after (sameBus_setPc _ a)

theorem busRun_callIf (test : Bool) (a : Word) (s : State) :
    BusRun s (callIf test a s) (if test then pushes s else []) := by
  cases test with
  | true => exact busRun_callTo a s
  | false => exact SameBus.busRun ⟨rfl, rfl, rfl, rfl, rfl⟩

theorem busRun_returnFrom (s : State) : BusRun s (returnFrom s) (pops s) :=
  busRun_pop16.after (sameBus_setPc _ _)

theorem busRun_returnIf (test : Bool) (s : State) :
    BusRun s (returnIf test s) (if test then pops s else []) := by
  cases test with
  | true => exact busRun_returnFrom s
  | false => exact SameBus.busRun ⟨rfl, rfl, rfl, rfl, rfl⟩

/-! ## Every instruction -/

/-- What an instruction ends in is reached by its row of R70 and updates the bus does not see. -/
theorem exec_busRun (e : exec i s = .next t) : BusRun s t (accesses i s) := by
  cases i with
  | movRR | mviR =>
    obtain rfl := exec_next_inj rfl e
    exact (sameBus_setReg _ _ _).busRun
  | movRM | lda | ldax =>
    obtain rfl := exec_next_inj rfl e
    exact (busRun_memRead _).after (sameBus_setReg _ _ _)
  | movMR | mviM | sta | stax =>
    obtain rfl := exec_next_inj rfl e
    exact busRun_memWrite _ _
  | lxi =>
    obtain rfl := exec_next_inj rfl e
    exact (sameBus_setPair _ _ _).busRun
  | lhld =>
    obtain rfl := exec_next_inj rfl e
    exact (busRun_memRead16 _).after (sameBus_setPair _ _ _)
  | shld =>
    obtain rfl := exec_next_inj rfl e
    exact busRun_memWrite16 _ _
  | xchg =>
    obtain rfl := exec_next_inj rfl e
    exact ((sameBus_setPair _ _ _).trans (sameBus_setPair _ _ _)).busRun
  | ldhi | ldsi =>
    obtain ⟨-, rfl⟩ := ifAdmitted_next.1 e
    exact (sameBus_setPair _ _ _).busRun
  | lhlx =>
    obtain ⟨-, rfl⟩ := ifAdmitted_next.1 e
    exact (busRun_memRead16 _).after (sameBus_setPair _ _ _)
  | shlx =>
    obtain ⟨-, rfl⟩ := ifAdmitted_next.1 e
    exact busRun_memWrite16 _ _
  | push =>
    obtain rfl := exec_next_inj rfl e
    exact busRun_push16 _
  | pushPsw =>
    obtain rfl := exec_next_inj rfl e
    simpa [pushes] using (busRun_push16 _).before (flagsOnly_openBit s s.params.flagBit3).sameBus
  | pop =>
    obtain rfl := exec_next_inj rfl e
    exact busRun_pop16.after (sameBus_setPair _ _ _)
  | popPsw =>
    obtain rfl := exec_next_inj rfl e
    exact busRun_pop16.after ((sameBus_setReg _ .a _).trans (flagsOnly_set _ _).sameBus)
  | xthl =>
    obtain rfl := exec_next_inj rfl e
    exact (((busRun_memRead16 s.sp).trans (busRun_memWrite (s.sp + 1) _)).trans
      (busRun_memWrite s.sp _)).after (sameBus_setPair _ _ _)
  | sphl =>
    obtain rfl := exec_next_inj rfl e
    exact (sameBus_setPair s .sp s.hl).busRun
  | jmp | pchl =>
    obtain rfl := exec_next_inj rfl e
    exact (sameBus_setPc _ _).busRun
  | jnz | jz | jnc | jc | jpo | jpe | jp | jm =>
    obtain rfl := exec_next_inj rfl e
    exact (sameBus_jumpIf _ _ _).busRun
  | jnk | jk =>
    obtain ⟨-, rfl⟩ := ifAdmitted_next.1 e
    exact (sameBus_jumpIf _ _ _).busRun
  | call | rst =>
    obtain rfl := exec_next_inj rfl e
    exact busRun_callTo _ _
  | cnz | cz | cnc | cc | cpo | cpe | cp | cm =>
    obtain rfl := exec_next_inj rfl e
    exact busRun_callIf _ _ _
  | rstv =>
    obtain ⟨-, rfl⟩ := ifAdmitted_next.1 e
    exact busRun_callIf _ _ _
  | ret =>
    obtain rfl := exec_next_inj rfl e
    exact busRun_returnFrom _
  | rnz | rz | rnc | rc | rpo | rpe | rp | rm =>
    obtain rfl := exec_next_inj rfl e
    exact busRun_returnIf _ _
  | inPort p =>
    obtain rfl := exec_next_inj rfl e
    exact (busRun_ioRead p).after (sameBus_setReg _ _ _)
  | outPort p =>
    obtain rfl := exec_next_inj rfl e
    exact busRun_ioWrite p _
  | addR | adi | adcR | aci =>
    obtain rfl := exec_next_inj rfl e
    exact (sameBus_accAdd _ _ _).busRun
  | addM | adcM =>
    obtain rfl := exec_next_inj rfl e
    exact (busRun_memRead s.hl).after (sameBus_accAdd _ _ _)
  | subR | sui | sbbR | sbi =>
    obtain rfl := exec_next_inj rfl e
    exact (sameBus_accSub _ _ _).busRun
  | subM | sbbM =>
    obtain rfl := exec_next_inj rfl e
    exact (busRun_memRead s.hl).after (sameBus_accSub _ _ _)
  | anaR | ani | xraR | xri | oraR | ori =>
    obtain rfl := exec_next_inj rfl e
    exact (sameBus_logic _ _ _).busRun
  | anaM | xraM | oraM =>
    obtain rfl := exec_next_inj rfl e
    exact (busRun_memRead s.hl).after (sameBus_logic _ _ _)
  | cmpR | cpi =>
    obtain rfl := exec_next_inj rfl e
    exact (sameBus_accCmp _ _).busRun
  | cmpM =>
    obtain rfl := exec_next_inj rfl e
    exact (busRun_memRead s.hl).after (sameBus_accCmp _ _)
  | dad | rlc | rrc | ral | rar | inrR | dcrR | daa | cma | stc | cmc =>
    obtain rfl := exec_next_inj rfl e
    refine SameBus.busRun (SameBus.setVK ?_ _ _)
    constructor <;> rfl
  | dsub | arhl | rdel =>
    obtain ⟨-, rfl⟩ := ifAdmitted_next.1 e
    refine SameBus.busRun (SameBus.setVK ?_ _ _)
    constructor <;> rfl
  | inx | dcx =>
    obtain rfl := exec_next_inj rfl e
    exact ((sameBus_setPair _ _ _).setVK _ _).busRun
  | inrM | dcrM =>
    obtain rfl := exec_next_inj rfl e
    exact ((busRun_memRead s.hl).trans (busRun_memWrite s.hl _)).after
      (flagsOnly_arithFlags _ _ _).sameBus
  | rim =>
    obtain rfl := exec_next_inj rfl e
    exact ((sameBus_rimIe s).trans (sameBus_setReg _ _ _)).busRun
  | nop | hlt | sim | ei | di =>
    obtain rfl := exec_next_inj rfl e
    exact SameBus.busRun ⟨rfl, rfl, rfl, rfl, rfl⟩

/-! ## Fetching -/

/-- The state after n fetches of one byte. -/
def fetchBytes : Nat → State → State
  | 0, s => s
  | n + 1, s => (fetch8 (fetchBytes n s)).2

/-- The byte fetched after n others. -/
def fetchedByte (s : State) (n : Nat) : Byte := (fetch8 (fetchBytes n s)).1

theorem lengthOf_cases (b : Byte) : lengthOf b = 1 ∨ lengthOf b = 2 ∨ lengthOf b = 3 := by
  unfold lengthOf
  split
  · exact .inr (.inr rfl)
  · split
    · exact .inr (.inl rfl)
    · exact .inl rfl

/-- What a fetch does: as many bytes as the first one fixes, decoded (R90, R98). -/
theorem fetchInstr_cases (s : State) :
    (lengthOf (fetchedByte s 0) = 1 ∧
        fetchInstr s = (decodeBytes (fetchedByte s 0) 0 0, fetchBytes 1 s)) ∨
      (lengthOf (fetchedByte s 0) = 2 ∧
        fetchInstr s = (decodeBytes (fetchedByte s 0) (fetchedByte s 1) 0, fetchBytes 2 s)) ∨
      (lengthOf (fetchedByte s 0) = 3 ∧ fetchInstr s =
        (decodeBytes (fetchedByte s 0) (fetchedByte s 1) (fetchedByte s 2), fetchBytes 3 s)) := by
  have unfolded : fetchInstr s =
    match lengthOf (fetchedByte s 0) with
    | 1 => (decodeBytes (fetchedByte s 0) 0 0, fetchBytes 1 s)
    | 2 => (decodeBytes (fetchedByte s 0) (fetchedByte s 1) 0, fetchBytes 2 s)
    | _ => (decodeBytes (fetchedByte s 0) (fetchedByte s 1) (fetchedByte s 2), fetchBytes 3 s) := rfl
  rw [unfolded]
  rcases lengthOf_cases (fetchedByte s 0) with len | len | len <;> simp [len]

theorem encode_decodeBytes_length (b1 b2 b3 : Byte) :
    (encode (decodeBytes b1 b2 b3)).length = lengthOf b1 := by
  obtain ⟨-, -, len⟩ := encode_decodeBytes_first b1
  obtain ⟨-, bytes⟩ := encodeInvertsDecode b1 b2 b3
  rw [bytes]
  rcases lengthOf_cases b1 with l | l | l <;> rw [l] <;> rfl

/-- A fetch is one byte after another, as many as the instruction's encoding has. -/
theorem fetchInstr_snd (s : State) :
    (fetchInstr s).2 = fetchBytes (encode (fetchInstr s).1).length s := by
  rcases fetchInstr_cases s with ⟨len, e⟩ | ⟨len, e⟩ | ⟨len, e⟩ <;>
    rw [e, encode_decodeBytes_length, len]

theorem fetchBytes_pc (n : Nat) (s : State) : (fetchBytes n s).pc = s.pc + BitVec.ofNat 16 n := by
  induction n with
  | zero => simp [fetchBytes]
  | succ n ih => rw [fetchBytes, fetch8_pc, ih, BitVec.ofNat_add, BitVec.add_assoc]; rfl

theorem busRun_fetch8 (s : State) : BusRun s (fetch8 s).2 [.read s.pc] :=
  (busRun_memRead s.pc).after (sameBus_setPc _ _)

theorem busRun_fetchBytes (n : Nat) (s : State) :
    BusRun s (fetchBytes n s) ((List.range n).map fun k => .read (s.pc + BitVec.ofNat 16 k)) := by
  induction n with
  | zero => exact SameBus.busRun ⟨rfl, rfl, rfl, rfl, rfl⟩
  | succ n ih =>
    rw [List.range_succ, List.map_append, List.map_singleton, ← fetchBytes_pc]
    exact ih.trans (busRun_fetch8 _)

/-- A fetch reads the instruction's bytes in increasing address order and makes no other access (R67). -/
theorem busRun_fetchInstr (s : State) :
    BusRun s (fetchInstr s).2 ((List.range (encode (fetchInstr s).1).length).map fun k =>
      .read (s.pc + BitVec.ofNat 16 k)) := by
  rw [fetchInstr_snd]
  exact busRun_fetchBytes _ s

theorem memRun_fetchInstr (s : State) : MemRun s (fetchInstr s).2 [] := by
  have reads := (busRun_fetchInstr s).memory
  rw [List.filterMap_map] at reads
  have none : ((List.range (encode (fetchInstr s).1).length).filterMap fun _ => (none : Option Word)) = [] := by
    simp
  exact none ▸ reads

/-! ## The bus of an interrupt entry, and of a machine whose memory is all ram -/

theorem busRun_takeInterrupt (vector : Word) (s : State) :
    BusRun s (takeInterrupt vector s) (pushes s) :=
  (busRun_callTo vector s.enterHandler).before ⟨rfl, rfl, rfl, rfl, rfl⟩

/-- The access is one of memory, and none of a port. -/
def Access.isMemory : Access → Bool
  | .read _ | .write _ => true
  | .portIn _ | .portOut _ => false

theorem all_isMemory_ite {as : List Access} (test : Bool) (h : as.all Access.isMemory = true) :
    (if test then as else []).all Access.isMemory = true := by
  cases test with
  | true => exact h
  | false => rfl

/-- IN and OUT alone access ports (R70). -/
theorem accesses_all_isMemory (hin : ∀ p, i ≠ .inPort p) (hout : ∀ p, i ≠ .outPort p) :
    (accesses i s).all Access.isMemory = true := by
  cases i with
  | inPort p => exact absurd rfl (hin p)
  | outPort p => exact absurd rfl (hout p)
  | cnz | cz | cnc | cc | cpo | cpe | cp | cm | rnz | rz | rnc | rc | rpo | rpe | rp | rm | rstv =>
    exact all_isMemory_ite _ rfl
  | _ => rfl

theorem filter_shows_eq_nil (ram : s.params.memMap = []) (h : as.all Access.isMemory = true) :
    as.filter s.shows = [] := by
  have hidden (x : Access) (m : x.isMemory = true) : s.shows x = false := by
    cases x with
    | read | write => simp [State.shows, State.kindAt, ram, kindIn]
    | portIn | portOut => exact nomatch m
  rw [List.filter_eq_nil_iff]
  exact fun x m => by simp [hidden x (List.all_eq_true.1 h x m)]

/-- Where the environment sees no access, it answers nothing and records hold acknowledges alone. -/
theorem Transfers.unseen (h : Transfers s t as) (none : as.filter s.shows = []) :
    t.env.busIn = s.env.busIn ∧
      ∃ evs, t.env.trace = evs ++ s.env.trace ∧ ∀ e ∈ evs, e = .holdAck := by
  obtain ⟨-, ⟨evs, trace, kinds, seen⟩, busIn, -⟩ := h
  rw [none] at seen busIn
  refine ⟨busIn, evs, trace, fun e m => (kinds e m).resolve_right fun shown => ?_⟩
  have silent := List.filterMap_eq_nil_iff.1 seen e (List.mem_reverse.2 m)
  rw [silent] at shown
  exact nomatch shown

/-- Settles O11: the bus carries the rows of R70's table, of which all-ram memory shows nothing. -/
theorem dataAccessesFollowTheirTable : Obligations.DataAccessesFollowTheirTable :=
  ⟨fun s => (busRun_fetchInstr s).transfers, fun s vector => (busRun_takeInterrupt vector s).transfers,
    fun _ _ _ e => ⟨(exec_busRun e).transfers, fun ram hin hout =>
      (exec_busRun e).transfers.unseen (filter_shows_eq_nil ram (accesses_all_isMemory hin hout))⟩⟩

end Sys2Proof.Machine
end

section
/-! SUPPORT. The interrupts (60_exceptions.md): which one is taken, and what every entry has in common, the common
sequence and the acknowledge of INTR alike (R305, R306, R320, R325). -/

namespace Sys2Proof.Machine

variable {s t u : State} {w : Interrupt}

/-! ## The winner -/

/-- The interrupt taken is the first pending one (R306). -/
theorem winner_cases (s : State) :
    (winner s = some .trap ∧ pendTrap s = true) ∨
      (winner s = some .rst75 ∧ pendTrap s = false ∧ pend75 s = true) ∨
      (winner s = some .rst65 ∧ pendTrap s = false ∧ pend75 s = false ∧ pend65 s = true) ∨
      (winner s = some .rst55 ∧ pendTrap s = false ∧ pend75 s = false ∧ pend65 s = false ∧
        pend55 s = true) ∨
      (winner s = some .intr ∧ pendTrap s = false ∧ pend75 s = false ∧ pend65 s = false ∧
        pend55 s = false ∧ pendIntr s = true) ∨
      (winner s = none ∧ pendTrap s = false ∧ pend75 s = false ∧ pend65 s = false ∧
        pend55 s = false ∧ pendIntr s = false) := by
  cases trap : pendTrap s with
  | true => simp [winner, trap]
  | false =>
    cases rst75 : pend75 s with
    | true => simp [winner, trap, rst75]
    | false =>
      cases rst65 : pend65 s with
      | true => simp [winner, trap, rst75, rst65]
      | false =>
        cases rst55 : pend55 s with
        | true => simp [winner, trap, rst75, rst65, rst55]
        | false => cases intr : pendIntr s <;> simp [winner, trap, rst75, rst65, rst55, intr]

theorem winner_eq_trap (h : pendTrap s = true) : winner s = some .trap := if_pos h

/-- Without IE, and during EI_DELAY, only TRAP can be taken (R305, R312). -/
theorem winner_of_disabled (h : enabled s = false) :
    winner s = none ∨ winner s = some .trap := by
  have masked : pend75 s = false ∧ pend65 s = false ∧ pend55 s = false ∧ pendIntr s = false := by
    simp [pend75, pend65, pend55, pendIntr, h]
  obtain ⟨no75, no65, no55, noIntr⟩ := masked
  simp only [winner, no75, no65, no55, noIntr, Bool.false_eq_true, if_false]
  split
  · exact .inr rfl
  · exact .inl rfl

/-! ## Entries -/

/-- From s to u an entry has begun, and PC is still to be pushed: the halt, IE and EI_DELAY are over, and nothing
else of the processor changed but the latches (R320, R325). -/
structure EntryBegun (s u : State) : Prop where
  halted : u.halted = false
  ie : u.intr.ie = false
  eiDelay : u.intr.eiDelay = false
  regs : u.regs = s.regs
  flags : u.flags = s.flags
  sp : u.sp = s.sp
  pc : u.pc = s.pc
  tfd : u.tfd = s.tfd
  m55 : u.intr.m55 = s.intr.m55
  m65 : u.intr.m65 = s.intr.m65
  m75 : u.intr.m75 = s.intr.m75
  memory : MemRun s u []

/-- The latches and what TRAP keeps are the entry's own business. -/
theorem entryBegun_enterHandler (s : State) (c : IntCtl) (m55 : c.m55 = s.intr.m55)
    (m65 : c.m65 = s.intr.m65) (m75 : c.m75 = s.intr.m75) :
    EntryBegun s { s with intr := c }.enterHandler :=
  ⟨rfl, rfl, rfl, rfl, rfl, rfl, rfl, rfl, m55, m65, m75, SameBus.memRun (by constructor <;> rfl)⟩

theorem memRun_intaRead (s : State) : MemRun s (intaRead s).2 [] :=
  ⟨storesOnly_atCycle.trans (.of_eq (by simp [intaRead]) (by simp [intaRead]) (by simp [intaRead])),
    fun wf => by simpa [intaRead] using atCycle_wf wf⟩

/-- The bytes the device supplies do not disturb the entry. -/
theorem EntryBegun.intaRead (h : EntryBegun s u) : EntryBegun s (intaRead u).2 := by
  obtain ⟨halted, ie, eiDelay, regs, flags, sp, pc, tfd, m55, m65, m75, memory⟩ := h
  exact ⟨by simpa, by simpa, by simpa, by simpa, by simpa, by simpa, by simpa, by simpa, by simpa,
    by simpa, by simpa, memory.trans (memRun_intaRead u)⟩

theorem EntryBegun.pushed (h : EntryBegun s u) (a : Word) : Pushed s (callTo a u) s.pc :=
  h.pc ▸ (pushed_callTo a u).earlier h.sp h.memory.stores

theorem EntryBegun.entersAt (h : EntryBegun s u) (a : Word) : EntersAt s (callTo a u) a := by
  have pushed := h.pushed a
  obtain ⟨halted, ie, eiDelay, regs, flags, -, -, tfd, m55, m65, m75, -⟩ := h
  exact ⟨by simpa, by simpa, by simpa, pushed, rfl, by simpa, by simpa, by simpa, by simpa, by simpa,
    by simpa⟩

theorem EntryBegun.memRun (h : EntryBegun s u) (a : Word) :
    MemRun s (callTo a u) [s.sp - 1, s.sp - 2] :=
  h.sp ▸ h.memory.trans (busRun_callTo a u).memory

/-- Settles O19: the common sequence begins the entry and then calls the vector. -/
theorem interruptEntrySavesPcOnly : Obligations.InterruptEntrySavesPcOnly := fun s vector =>
  ⟨(entryBegun_enterHandler s s.intr rfl rfl rfl).entersAt vector, by simp⟩

/-! ## The acknowledge of INTR -/

theorem takeIntr_rst {n : BitVec 3} (first : decodeBytes (intaRead s.enterHandler).1 0 0 = .rst n)
    (form : s.params.intaRst = true) :
    takeIntr s = .next (callTo (rstTarget n) (intaRead s.enterHandler).2) := by
  simp only [takeIntr, first, intaRead_params, enterHandler_params, form, if_true]

theorem takeIntr_call {a : Word} (first : decodeBytes (intaRead s.enterHandler).1 0 0 = .call a)
    (form : s.params.intaCall = true) :
    takeIntr s = .next (callTo
      (mkWord (intaRead (intaRead (intaRead s.enterHandler).2).2).1
        (intaRead (intaRead s.enterHandler).2).1)
      (intaRead (intaRead (intaRead s.enterHandler).2).2).2) := by
  simp only [takeIntr, first, intaRead_params, enterHandler_params, form, if_true]

/-- A first byte that is no RST n and no CALL, or is one whose form INTA_FORMS leaves out, is refused (R325). -/
theorem takeIntr_refused
    (rst : (∃ n, decodeBytes (intaRead s.enterHandler).1 0 0 = .rst n) → s.params.intaRst = false)
    (call : (∃ a, decodeBytes (intaRead s.enterHandler).1 0 0 = .call a) →
      s.params.intaCall = false) :
    takeIntr s = .refused (.intaByte (intaRead s.enterHandler).1) := by
  unfold takeIntr
  dsimp only
  split
  · next n first => simp [rst ⟨n, first⟩]
  · next a first => simp [call ⟨a, first⟩]
  · rfl

/-- From s to t the interrupt w was taken: an entry begun, PC pushed; only TRAP touches TRAPFF, and only RST 7.5
touches R7.5 (R330, R332, R333). -/
def EntryTaken (w : Interrupt) (s t : State) : Prop :=
  ∃ a u, t = callTo a u ∧ EntryBegun s u ∧ (w ≠ .trap → u.intr.trapFF = s.intr.trapFF) ∧
    (w ≠ .rst75 → u.intr.r75 = s.intr.r75) ∧ u.env.pins = s.env.pins

/-- The byte b stands first in no form of acknowledge that INTA_FORMS admits (R325). -/
def IntaRefused (s : State) (b : Byte) : Prop :=
  ((∃ n, decodeBytes b 0 0 = .rst n) → s.params.intaRst = false) ∧
    ((∃ a, decodeBytes b 0 0 = .call a) → s.params.intaCall = false)

/-- What the acknowledge of INTR answers. -/
theorem takeIntr_cases (s : State) :
    (∃ t, takeIntr s = .next t ∧ EntryTaken .intr s t) ∨
      ∃ b, takeIntr s = .refused (.intaByte b) ∧ IntaRefused s b := by
  have begun := (entryBegun_enterHandler s s.intr rfl rfl rfl).intaRead
  by_cases rst : (∃ n, decodeBytes (intaRead s.enterHandler).1 0 0 = .rst n) →
      s.params.intaRst = false
  · by_cases call : (∃ a, decodeBytes (intaRead s.enterHandler).1 0 0 = .call a) →
        s.params.intaCall = false
    · exact .inr ⟨_, takeIntr_refused rst call, rst, call⟩
    · obtain ⟨⟨a, first⟩, form⟩ := Classical.not_imp.1 call
      exact .inl ⟨_, takeIntr_call first (by simpa using form), _, _, rfl,
        begun.intaRead.intaRead, by simp, by simp, by simp⟩
  · obtain ⟨⟨n, first⟩, form⟩ := Classical.not_imp.1 rst
    exact .inl ⟨_, takeIntr_rst first (by simpa using form), _, _, rfl, begun, by simp, by simp,
      by simp⟩

/-- What taking an interrupt answers: an entry, or for INTR a refusal (R311). -/
theorem takeWinner_cases (w : Interrupt) (s : State) :
    (∃ t, takeWinner w s = .next t ∧ EntryTaken w s t) ∨
      w = .intr ∧ ∃ b, takeWinner w s = .refused (.intaByte b) ∧ IntaRefused s b := by
  cases w with
  | trap =>
    exact .inl ⟨_, rfl, _, _, rfl, entryBegun_enterHandler s _ rfl rfl rfl, by simp, by simp, rfl⟩
  | rst75 =>
    exact .inl ⟨_, rfl, _, _, rfl, entryBegun_enterHandler s _ rfl rfl rfl, by simp, by simp, rfl⟩
  | rst65 | rst55 =>
    exact .inl ⟨_, rfl, _, _, rfl, entryBegun_enterHandler s s.intr rfl rfl rfl, by simp, by simp, rfl⟩
  | intr => exact (takeIntr_cases s).imp_right fun refused => ⟨rfl, refused⟩

theorem entryTaken_of_takeWinner (e : takeWinner w s = .next t) : EntryTaken w s t := by
  rcases takeWinner_cases w s with ⟨u, e', taken⟩ | ⟨-, b, e', -⟩ <;> rw [e] at e'
  · obtain rfl := Host.Outcome.next.inj e'
    exact taken
  · exact nomatch e'

/-- Settles O17: the conditions as written, the first one that holds, and an entry that leaves the others' requests. -/
theorem highestPriorityWins : Obligations.HighestPriorityWins := by
  intro s
  refine ⟨by simp [pendTrap], by simp [pend75, enabled, and_assoc], by simp [pend65, enabled, and_assoc],
    by simp [pend55, enabled, and_assoc], by simp [pendIntr, enabled], ?_, ?_, ?_, ?_, ?_, ?_, ?entry⟩
  case entry =>
    intro w t _ e
    obtain ⟨a, u, rfl, -, trapFF, r75, pins⟩ := entryTaken_of_takeWinner e
    exact ⟨fun n => (by simpa using trapFF n), fun n => (by simpa using r75 n), by simpa using pins⟩
  all_goals
    rcases winner_cases s with ⟨h, p⟩ | ⟨h, p⟩ | ⟨h, p⟩ | ⟨h, p⟩ | ⟨h, p⟩ | ⟨h, p⟩ <;> simp [h, p]

end Sys2Proof.Machine
end

section
/-! SUPPORT. One step, taken apart along its definition (R311, R341, R351): reset, hold, the slot, and in the slot an
entry, nothing while halted, or one instruction. -/

namespace Sys2Proof.Machine

variable {s t u : State} {w : Interrupt}

/-! ## The step -/

theorem step_of_reset (sr : (nextSample s).sr = true) : step s = .next (applyReset s.atSample) := by
  simp [step, sr]

theorem step_of_hold (sr : (nextSample s).sr = false) (rqm : (nextSample s).rqm = true) :
    step s = .next (applyHold (nextSample s) s.sampled) := by
  simp [step, sr, rqm, State.sampled]

theorem step_of_cut {n : Nat} (sr : (nextSample s).sr = false) (rqm : (nextSample s).rqm = false)
    (cut : (nextSample s).cut = some n) : step s = slotCut n s.sampled := by
  simp [step, sr, rqm, cut, State.sampled]

theorem undisturbed_iff :
    undisturbed s = true ↔ (nextSample s).sr = false ∧ (nextSample s).rqm = false ∧
      (nextSample s).cut = none := by
  simp [undisturbed, and_assoc]

theorem step_of_undisturbed (h : undisturbed s = true) : step s = slot s.sampled := by
  obtain ⟨sr, rqm, cut⟩ := undisturbed_iff.1 h
  simp [step, sr, rqm, cut, State.sampled]

/-- What a step is, by the sample (R311). -/
theorem step_cases (s : State) :
    ((nextSample s).sr = true ∧ step s = .next (applyReset s.atSample)) ∨
      ((nextSample s).sr = false ∧ (nextSample s).rqm = true ∧
        step s = .next (applyHold (nextSample s) s.sampled)) ∨
      ((nextSample s).sr = false ∧ (nextSample s).rqm = false ∧ (nextSample s).cut = none ∧
        step s = slot s.sampled) ∨
      ∃ n, (nextSample s).sr = false ∧ (nextSample s).rqm = false ∧
        (nextSample s).cut = some n ∧ step s = slotCut n s.sampled := by
  cases sr : (nextSample s).sr with
  | true => exact .inl ⟨rfl, step_of_reset sr⟩
  | false =>
    cases rqm : (nextSample s).rqm with
    | true => exact .inr (.inl ⟨rfl, rfl, step_of_hold sr rqm⟩)
    | false =>
      cases cut : (nextSample s).cut with
      | none => exact .inr (.inr (.inl ⟨rfl, rfl, rfl,
          step_of_undisturbed (undisturbed_iff.2 ⟨sr, rqm, cut⟩)⟩))
      | some n => exact .inr (.inr (.inr ⟨n, rfl, rfl, rfl, step_of_cut sr rqm cut⟩))

/-! ## The slot -/

theorem slot_of_winner (h : winner s = some w) : slot s = takeWinner w s := by
  simp [slot, h]

theorem slot_of_halted (h : winner s = none) (halted : s.halted = true) : slot s = .next s := by
  simp [slot, h, halted]

theorem slot_of_running (h : winner s = none) (running : s.halted = false) :
    slot s = runInstr s := by
  simp [slot, h, running]

/-- What a slot is. -/
theorem slot_cases (s : State) :
    (∃ w, winner s = some w ∧ slot s = takeWinner w s) ∨
      (winner s = none ∧ s.halted = true ∧ slot s = .next s) ∨
      (winner s = none ∧ s.halted = false ∧ slot s = runInstr s) := by
  cases h : winner s with
  | some w => exact .inl ⟨w, rfl, slot_of_winner h⟩
  | none =>
    cases halted : s.halted with
    | true => exact .inr (.inl ⟨rfl, rfl, slot_of_halted h halted⟩)
    | false => exact .inr (.inr ⟨rfl, rfl, slot_of_running h halted⟩)

theorem slotCut_next {n : Nat} (e : slotCut n s = .next t) :
    ∃ u, slot s = .next u ∧ t = cutShort n s u := by
  unfold slotCut at e
  split at e
  · next u e' => exact ⟨u, e', (Host.Outcome.next.inj e).symm⟩
  · exact nomatch e
  · exact nomatch e

theorem slotCut_of_next (n : Nat) (e : slot s = .next u) : slotCut n s = .next (cutShort n s u) := by
  simp [slotCut, e]

theorem slotCut_of_refused {r : Refusal} (n : Nat) (e : slot s = .refused r) :
    slotCut n s = .refused r := by
  simp [slotCut, e]

/-- Sampling changes no field that the bus sees. -/
theorem sameBus_sampled (s : State) : SameBus s s.sampled := by
  constructor <;> rfl

/-- An entry begun after sampling is one begun at the slot's start. -/
theorem EntryBegun.of_sampled (h : EntryBegun s.sampled u) : EntryBegun s u := by
  obtain ⟨halted, ie, eiDelay, regs, flags, sp, pc, tfd, m55, m65, m75, memory⟩ := h
  exact ⟨halted, ie, eiDelay, regs, flags, sp, pc, tfd, m55, m65, m75,
    (sameBus_sampled s).memRun.trans memory⟩

theorem step_of_winner (h : undisturbed s = true) (won : winner s.sampled = some w) :
    step s = takeWinner w s.sampled :=
  (step_of_undisturbed h).trans (slot_of_winner won)

/-- The common entry after sampling, whatever it has made of the latches and of what TRAP keeps. -/
theorem entersAt_takeInterrupt_sampled {c : IntCtl} (vector : Word) (m55 : c.m55 = s.intr.m55)
    (m65 : c.m65 = s.intr.m65) (m75 : c.m75 = s.intr.m75) :
    EntersAt s (takeInterrupt vector { s.sampled with intr := c }) vector :=
  (entryBegun_enterHandler s.sampled c m55 m65 m75).of_sampled.entersAt vector

/-- Settles O20: TRAP comes first, and its entry is the common one with its own bits written. -/
theorem trapIsTakenAtOnce : Obligations.TrapIsTakenAtOnce := fun s h pending =>
  ⟨_, step_of_winner h (winner_eq_trap pending),
    entersAt_takeInterrupt_sampled _ (by rfl) (by rfl) (by rfl), by simp [takeTrap, State.sampled, latchEdges]⟩

/-- Settles O21: the common entry, after RST 7.5 has cleared its latch. -/
theorem maskableEntriesGoToTheirVectors : Obligations.MaskableEntriesGoToTheirVectors := by
  refine fun s h => ⟨fun won => ⟨_, step_of_winner h won, ?_, ?_⟩,
    fun won => ⟨_, step_of_winner h won, ?_, ?_⟩, fun won => ⟨_, step_of_winner h won, ?_, ?_⟩⟩
  · exact entersAt_takeInterrupt_sampled _ (by rfl) (by rfl) (by rfl)
  · simp [takeRst75]
  · exact entersAt_takeInterrupt_sampled (c := s.sampled.intr) _ rfl rfl rfl
  · simp [takeRst65]
  · exact entersAt_takeInterrupt_sampled (c := s.sampled.intr) _ rfl rfl rfl
  · simp [takeRst55]

/-! ## The acknowledge -/

/-- The hold before the acknowledge takes nothing from the script, so the device's next byte is read. -/
theorem intaRead_of_busIn_cons {v : Byte} {rest : List Byte} (h : s.env.busIn = v :: rest) :
    (intaRead s).1 = v ∧ (intaRead s).2.env.busIn = rest := by
  have answer := busAnswer_of_busIn_cons ((atCycle_env_busIn s).trans h)
  simp [intaRead, answer]

/-- The one-byte encodings RST n and the first byte of CALL are the only first bytes of theirs (R99). -/
theorem first_of_rst {b : Byte} {n : BitVec 3} (h : decodeBytes b 0 0 = .rst n) :
    b = opAt53 0xC7 (n.setWidth 8) := by
  obtain ⟨-, first, -⟩ := encode_decodeBytes_first b
  rw [h] at first
  exact (List.singleton_inj.1 first).symm

theorem first_of_call {b : Byte} {a : Word} (h : decodeBytes b 0 0 = .call a) : b = 0xCD#8 := by
  obtain ⟨-, first, -⟩ := encode_decodeBytes_first b
  rw [h] at first
  exact (List.singleton_inj.1 first).symm

theorem decodeBytes_rst (n : BitVec 3) :
    decodeBytes (opAt53 0xC7 (n.setWidth 8)) 0 0 = .rst n := by
  revert n; decide

/-- Settles O22: the device's bytes are read one after another, and the entry is the call they name. -/
theorem acknowledgeRunsRestartOrCall : Obligations.AcknowledgeRunsRestartOrCall := by
  intro s h won
  have begun : EntryBegun s (intaRead s.sampled.enterHandler).2 :=
    (entryBegun_enterHandler s.sampled s.sampled.intr rfl rfl rfl).of_sampled.intaRead
  have taken : step s = takeIntr s.sampled := step_of_winner h won
  refine ⟨fun n rest form script => ?rst, fun lo hi rest form script => ?call,
    fun b rest noRst noCall script => ?other⟩
  case rst =>
    obtain ⟨first, left⟩ := intaRead_of_busIn_cons (s := s.sampled.enterHandler) script
    exact ⟨_, taken.trans (takeIntr_rst (first ▸ decodeBytes_rst n) form), begun.entersAt _,
      (callTo_env_busIn _ _).trans left⟩
  case call =>
    obtain ⟨first, left⟩ := intaRead_of_busIn_cons (s := s.sampled.enterHandler) script
    obtain ⟨low, left⟩ := intaRead_of_busIn_cons left
    obtain ⟨high, left⟩ := intaRead_of_busIn_cons left
    have answer := takeIntr_call (s := s.sampled) (a := 0) (first ▸ rfl) form
    rw [low, high] at answer
    exact ⟨_, taken.trans answer, begun.intaRead.intaRead.entersAt _,
      (callTo_env_busIn _ _).trans left⟩
  case other =>
    obtain ⟨first, -⟩ := intaRead_of_busIn_cons (s := s.sampled.enterHandler) script
    have refused := takeIntr_refused (s := s.sampled)
    rw [first] at refused
    exact taken.trans (refused (fun ⟨n, rst⟩ => absurd (first_of_rst rst) (noRst n))
      fun ⟨_, call⟩ => absurd (first_of_call call) noCall)

end Sys2Proof.Machine
end

section
/-! SUPPORT. What every step keeps: memory's canonical form and its bytes outside ram, IE with EI_DELAY, the latches
until they are served; and where a step stops or a halt ends (R9, R44, R73, R276, R277, R304, R312). -/

namespace Sys2Proof.Machine

variable {s t u : State} {w : Interrupt} {i : Instr}

/-! ## Fetching leaves the processor alone -/

theorem fetchBytes_kept {α : Type} (f : State → α) (h : ∀ s, f (fetch8 s).2 = f s) (n : Nat)
    (s : State) : f (fetchBytes n s) = f s := by
  induction n with
  | zero => rfl
  | succ n ih => exact (h _).trans ih

/-- A fetch moves PC and nothing else of the processor (R27). -/
theorem fetchInstr_kept {α : Type} (f : State → α) (h : ∀ s, f (fetch8 s).2 = f s) (s : State) :
    f (fetchInstr s).2 = f s := by
  rw [fetchInstr_snd]
  exact fetchBytes_kept f h _ s

@[simp] theorem fetchInstr_regs (s : State) : (fetchInstr s).2.regs = s.regs :=
  fetchInstr_kept (·.regs) fetch8_regs s

@[simp] theorem fetchInstr_intr (s : State) : (fetchInstr s).2.intr = s.intr :=
  fetchInstr_kept (·.intr) fetch8_intr s

@[simp] theorem fetchInstr_halted (s : State) : (fetchInstr s).2.halted = s.halted :=
  fetchInstr_kept (·.halted) fetch8_halted s

@[simp] theorem fetchInstr_params (s : State) : (fetchInstr s).2.params = s.params :=
  fetchInstr_kept (·.params) fetch8_params s

/-- The frame of a slot's instruction, from the state in which EI_DELAY is cleared and the bytes are fetched. -/
theorem runInstr_frame (e : runInstr s = .next t) :
    Frame (fetchInstr s.clearEiDelay).1 (fetchInstr s.clearEiDelay).2 t := exec_frame e

/-! ## Memory through a slot -/

theorem slotStores_of_winner (h : winner s = some w) : slotStores s = [s.sp - 1, s.sp - 2] := by
  simp [slotStores, h, pushes, Access.stored]

theorem slotStores_of_halted (h : winner s = none) (halted : s.halted = true) :
    slotStores s = [] := by
  simp [slotStores, h, halted]

theorem slotStores_of_running (h : winner s = none) (running : s.halted = false) :
    slotStores s = storesOf (fetchInstr s.clearEiDelay).1 (fetchInstr s.clearEiDelay).2 := by
  simp [slotStores, h, running]

theorem runInstr_memRun (e : runInstr s = .next t) :
    MemRun s t (storesOf (fetchInstr s.clearEiDelay).1 (fetchInstr s.clearEiDelay).2) :=
  have cleared : SameBus s s.clearEiDelay := by constructor <;> rfl
  (cleared.memRun.trans (memRun_fetchInstr _)).trans (exec_busRun e).memory

/-- A slot stores where the reset that cuts it short would tear (R70, R351). -/
theorem slot_memRun (e : slot s = .next t) : MemRun s t (slotStores s) := by
  rcases slot_cases s with ⟨w, won, e'⟩ | ⟨none, halted, e'⟩ | ⟨none, running, e'⟩ <;> rw [e'] at e
  · obtain ⟨a, u, rfl, begun, -⟩ := entryTaken_of_takeWinner e
    rw [slotStores_of_winner won]
    exact begun.memRun a
  · obtain rfl := Host.Outcome.next.inj e
    rw [slotStores_of_halted none halted]
    exact SameBus.memRun ⟨rfl, rfl, rfl, rfl, rfl⟩
  · rw [slotStores_of_running none running]
    exact runInstr_memRun e

/-! ## Bytes outside ram -/

/-- The parameters and the bytes outside ram are the same in t. -/
def FixedKept (s t : State) : Prop :=
  t.params = s.params ∧ ∀ a, s.kindAt a ≠ .ram → t.peek a = s.peek a

theorem FixedKept.trans (h : FixedKept s t) (g : FixedKept t u) : FixedKept s u := by
  obtain ⟨params, peek⟩ := h
  obtain ⟨params', peek'⟩ := g
  refine ⟨params'.trans params, fun a k => (peek' a ?_).trans (peek a k)⟩
  rwa [kindAt_of_params_eq params]

theorem MemRun.fixedKept {ws : List Word} (h : MemRun s t ws) : FixedKept s t :=
  let ⟨params, _, _, fixed⟩ := h.stores
  ⟨params, fixed⟩

theorem fixedKept_cutShort {n : Nat} (s u : State) : FixedKept u (cutShort n s u) :=
  ⟨foldl_tearByte_params _, fun _ k => peek_foldl_tearByte _ (.inr k)⟩

/-- Settles O10: resets, holds and stores change ram bytes alone. -/
theorem stepKeepsNonRamBytes : Obligations.StepKeepsNonRamBytes := by
  intro s t e
  have sampled : FixedKept s s.sampled := (sameBus_sampled s).memRun.fixedKept
  rcases step_cases s with ⟨-, e'⟩ | ⟨-, -, e'⟩ | ⟨-, -, -, e'⟩ | ⟨n, -, -, -, e'⟩ <;> rw [e'] at e
  · obtain rfl := Host.Outcome.next.inj e
    exact ⟨rfl, fun _ _ => rfl⟩
  · obtain rfl := Host.Outcome.next.inj e
    exact sampled.trans ⟨holdBus_params _ _, fun a k => peek_holdBus _ (.inr k)⟩
  · exact sampled.trans (slot_memRun e).fixedKept
  · obtain ⟨u, e'', rfl⟩ := slotCut_next e
    exact (sampled.trans (slot_memRun e'').fixedKept).trans (fixedKept_cutShort _ u)

/-! ## The invariant -/

theorem inv_iff :
    s.inv = true ↔ s.mem.wf = true ∧ (s.intr.eiDelay = true → s.intr.ie = true) ∧
      (s.halted = true → s.intr.eiDelay = false) := by
  simp only [State.inv, Bool.and_eq_true, Bool.or_eq_true, Bool.not_eq_true', and_assoc]
  cases s.intr.eiDelay <;> cases s.halted <;> simp

/-- Without EI_DELAY the invariant speaks of memory alone. -/
theorem inv_of_eiDelay (wf : s.mem.wf = true) (h : s.intr.eiDelay = false) : s.inv = true :=
  inv_iff.2 ⟨wf, by simp [h], fun _ => h⟩

/-- EI sets IE with EI_DELAY and runs in a machine that is not halted; every other instruction ends the delay
(R277, R311). -/
theorem runInstr_inv (wf : s.mem.wf = true) (running : s.halted = false)
    (e : runInstr s = .next t) : t.inv = true := by
  have memory := (runInstr_memRun e).wf wf
  obtain ⟨-, -, -, -, -, eiDelay, -, -, -, -, halted, -⟩ := runInstr_frame e
  by_cases ei : (fetchInstr s.clearEiDelay).1 = .ei
  · have ran : exec .ei (fetchInstr s.clearEiDelay).2 = .next t := ei ▸ e
    obtain ⟨-, ie, -⟩ := (ei_completes _).of_exec ran
    rw [ei] at halted
    have still : t.halted = false := (halted nofun).trans (by simpa using running)
    exact inv_iff.2 ⟨memory, fun _ => ie, by simp [still]⟩
  · exact inv_of_eiDelay memory ((eiDelay ei).trans (by simp))

theorem slot_inv (h : s.inv = true) (e : slot s = .next t) : t.inv = true := by
  obtain ⟨wf, -⟩ := inv_iff.1 h
  have memory := (slot_memRun e).wf wf
  rcases slot_cases s with ⟨w, -, e'⟩ | ⟨-, -, e'⟩ | ⟨-, running, e'⟩ <;> rw [e'] at e
  · obtain ⟨a, u, rfl, begun, -⟩ := entryTaken_of_takeWinner e
    exact inv_of_eiDelay memory (by simpa using begun.eiDelay)
  · obtain rfl := Host.Outcome.next.inj e
    exact h
  · exact runInstr_inv wf running e

/-- Settles O8: a reset ends the delay and keeps memory, a hold keeps both bits, and a slot keeps the invariant. -/
theorem stepKeepsInvariant : Obligations.StepKeepsInvariant := by
  intro s t h e
  have sampled : s.sampled.inv = true := h
  obtain ⟨wf, delay, halt⟩ := inv_iff.1 h
  rcases step_cases s with ⟨-, e'⟩ | ⟨-, -, e'⟩ | ⟨-, -, -, e'⟩ | ⟨n, -, -, -, e'⟩ <;> rw [e'] at e
  · obtain rfl := Host.Outcome.next.inj e
    exact inv_of_eiDelay wf rfl
  · obtain rfl := Host.Outcome.next.inj e
    have intr : (applyHold (nextSample s) s.sampled).intr = s.sampled.intr := holdBus_intr _ _
    have halted : (applyHold (nextSample s) s.sampled).halted = s.halted := holdBus_halted _ _
    rw [inv_iff, intr, halted]
    exact ⟨holdBus_wf _ wf, delay, halt⟩
  · exact slot_inv sampled e
  · obtain ⟨u, e'', rfl⟩ := slotCut_next e
    exact inv_of_eiDelay (foldl_tearByte_wf _ ((slot_memRun e'').wf wf)) rfl

/-- Settles O9: memory is empty and neither bit is set. -/
theorem resetHasInvariant : Obligations.ResetHasInvariant := inv_of_eiDelay Memory.wf_reset rfl

/-! ## Where a step stops -/

/-- What a slot answers: a next state, a byte of the acknowledge refused, or one of the ten refused. -/
theorem slot_answers (s : State) :
    (∃ t, slot s = .next t) ∨
      (∃ b, slot s = .refused (.intaByte b) ∧ winner s = some .intr ∧ IntaRefused s b) ∨
      ∃ m, slot s = .refused (.ext10 m) ∧ s.params.ext10 = false ∧ winner s = none ∧
        s.halted = false ∧ (footprint (fetchInstr s.clearEiDelay).1).ext10 = true := by
  rcases slot_cases s with ⟨w, won, e⟩ | ⟨-, -, e⟩ | ⟨none, running, e⟩ <;> rw [e]
  · rcases takeWinner_cases w s with ⟨t, e', -⟩ | ⟨rfl, b, e', refused⟩
    · exact .inl ⟨t, e'⟩
    · exact .inr (.inl ⟨b, e', won, refused⟩)
  · exact .inl ⟨s, rfl⟩
  · rcases exec_cases (fetchInstr s.clearEiDelay).1 (fetchInstr s.clearEiDelay).2 with
      ⟨t, e', -⟩ | ⟨ten, refused, m, e'⟩
    · exact .inl ⟨t, e'⟩
    · exact .inr (.inr ⟨m, e', by simpa using refused, none, running, ten⟩)

/-- Resets and holds always answer a next state, and a cut slot stops where the slot does. -/
theorem step_next_or_slot_refused (s : State) :
    (∃ t, step s = .next t) ∨ (nextSample s).sr = false ∧ (nextSample s).rqm = false ∧
      ∃ r, slot s.sampled = .refused r ∧ step s = .refused r := by
  rcases step_cases s with ⟨-, e⟩ | ⟨-, -, e⟩ | ⟨sr, rqm, -, e⟩ | ⟨n, sr, rqm, -, e⟩
  · exact .inl ⟨_, e⟩
  · exact .inl ⟨_, e⟩
  · cases answer : slot s.sampled with
    | next u => exact .inl ⟨u, e.trans answer⟩
    | refused r => exact .inr ⟨sr, rqm, r, rfl, e.trans answer⟩
    | fault r => exact nomatch r
  · cases answer : slot s.sampled with
    | next u => exact .inl ⟨_, e.trans (slotCut_of_next n answer)⟩
    | refused r => exact .inr ⟨sr, rqm, r, rfl, e.trans (slotCut_of_refused n answer)⟩
    | fault r => exact nomatch r

/-- Settles O7: a step is refused only as its slot is. -/
theorem onlyIntaFormsAndExt10Refuse : Obligations.OnlyIntaFormsAndExt10Refuse := by
  intro s
  refine (step_next_or_slot_refused s).imp_right fun ⟨sr, rqm, r, refused, e⟩ => ⟨sr, rqm, ?_⟩
  rcases slot_answers s.sampled with ⟨u, next⟩ | ⟨b, byte, won, rst, call⟩ |
    ⟨m, ten, ext10, none, running, row⟩
  · exact nomatch refused.symm.trans next
  · obtain rfl := Host.Outcome.refused.inj (refused.symm.trans byte)
    exact .inl ⟨b, e, won, rst, call⟩
  · obtain rfl := Host.Outcome.refused.inj (refused.symm.trans ten)
    exact .inr ⟨m, e, ext10, none, running, row⟩

/-! ## EI and HLT -/

theorem runsProgram_iff :
    runsProgram s = true ↔ undisturbed s = true ∧ winner s.sampled = none ∧ s.halted = false := by
  simp [runsProgram, and_assoc]

theorem step_of_runsProgram (h : runsProgram s = true) : step s = runInstr s.sampled := by
  obtain ⟨undist, none, running⟩ := runsProgram_iff.1 h
  exact (step_of_undisturbed undist).trans (slot_of_running none running)

/-- Settles O23: EI_DELAY disables all but TRAP, and the step clears it before it runs an instruction. -/
theorem eiDelaysMaskableInterrupts : Obligations.EiDelaysMaskableInterrupts := by
  refine fun s => ⟨⟨_, rfl, rfl, rfl⟩, fun delay => winner_of_disabled ?_,
    fun _ => winner_eq_trap, fun t runs e n => ?_⟩
  · have sampled : s.sampled.intr.eiDelay = true := delay
    simp [enabled, sampled]
  · obtain ⟨-, -, -, -, -, eiDelay, -⟩ := runInstr_frame ((step_of_runsProgram runs).symm.trans e)
    exact (eiDelay n).trans (by simp)

/-- Settles O24: entries and resets clear HALTED, and nothing else a halted machine does touches it. -/
theorem haltEndsOnlyByInterruptOrReset : Obligations.HaltEndsOnlyByInterruptOrReset := by
  refine ⟨fun s => rfl, fun s halted => ⟨fun sr => ⟨_, step_of_reset sr, rfl⟩,
    fun sr rqm => ⟨_, step_of_hold sr rqm, (holdBus_halted _ _).trans halted⟩, ?cut, ?disabled,
    fun undist => ⟨?idle, ?entry⟩⟩⟩
  case cut =>
    intro t sr rqm cut e
    obtain ⟨n, cut⟩ := Option.ne_none_iff_exists'.1 cut
    obtain ⟨u, -, rfl⟩ := slotCut_next ((step_of_cut sr rqm cut).symm.trans e)
    rfl
  case disabled =>
    intro ie
    have sampled : s.sampled.intr.ie = false := ie
    exact winner_of_disabled (by simp [enabled, sampled])
  case idle =>
    exact fun none => ⟨(step_of_undisturbed undist).trans (slot_of_halted none halted), halted⟩
  case entry =>
    intro t some e
    obtain ⟨w, won⟩ := Option.ne_none_iff_exists'.1 some
    obtain ⟨a, u, rfl, begun, -⟩ := entryTaken_of_takeWinner ((step_of_winner undist won).symm.trans e)
    exact ⟨by simpa using begun.halted, begun.of_sampled.pushed a⟩

/-! ## Latches -/

/-- SIM's instruction is the only one that touches R7.5, and only by bit 4 of A (R270). -/
theorem exec_keeps_r75 (e : exec i s = .next t) (cleared : t.intr.r75 ≠ s.intr.r75) :
    i = .sim ∧ s.regs.a.getLsbD 4 = true := by
  obtain ⟨-, -, -, -, -, -, sim, -⟩ := exec_frame e
  have isSim : i = .sim := by
    by_contra n
    obtain ⟨-, -, -, r75, -⟩ := sim n
    exact cleared r75
  refine ⟨isSim, ?_⟩
  subst isSim
  obtain ⟨-, parts⟩ := simWritesInItsThreeParts
  obtain ⟨-, -, -, -, keep, -⟩ := (parts s).of_exec e
  exact Bool.of_not_eq_false fun quiet => cleared (keep quiet)

/-- Through a slot TRAPFF stays unless TRAP is taken, and R7.5 unless RST 7.5 is taken or SIM runs with bit 4. -/
theorem slot_latches (e : slot s = .next t) :
    (t.intr.trapFF ≠ s.intr.trapFF → winner s = some .trap) ∧
      (t.intr.r75 ≠ s.intr.r75 → winner s = some .rst75 ∨
        (fetchInstr s.clearEiDelay).1 = .sim ∧ s.regs.a.getLsbD 4 = true) := by
  rcases slot_cases s with ⟨w, won, e'⟩ | ⟨-, -, e'⟩ | ⟨-, -, e'⟩ <;> rw [e'] at e
  · obtain ⟨a, u, rfl, -, trapFF, r75, -⟩ := entryTaken_of_takeWinner e
    rw [callTo_intr, won]
    refine ⟨fun changed => ?_, fun changed => .inl ?_⟩
    · rw [Decidable.not_imp_comm.1 trapFF changed]
    · rw [Decidable.not_imp_comm.1 r75 changed]
  · obtain rfl := Host.Outcome.next.inj e
    exact ⟨fun changed => absurd rfl changed, fun changed => absurd rfl changed⟩
  · obtain ⟨-, -, -, -, -, -, -, -, trapFF, -⟩ := runInstr_frame e
    refine ⟨fun changed => absurd (trapFF.trans (by simp)) changed, fun changed => .inr ?_⟩
    simpa using exec_keeps_r75 e (by simpa using changed)

/-- Settles O18: sampling sets the latches, a hold keeps them, and a slot clears them as it says. -/
theorem edgesAreLatched : Obligations.EdgesAreLatched := by
  refine fun s => ⟨rfl, by simp [State.sampled, latchEdges], by simp [State.sampled, latchEdges],
    rfl, rfl, rfl, rfl, rfl, rfl, rfl, rfl, fun t e sr cut => ?_⟩
  have kept : (t.intr.trapFF ≠ s.sampled.intr.trapFF → winner s.sampled = some .trap) ∧
      (t.intr.r75 ≠ s.sampled.intr.r75 → winner s.sampled = some .rst75 ∨
        (fetchInstr s.sampled.clearEiDelay).1 = .sim ∧ s.regs.a.getLsbD 4 = true) := by
    cases rqm : (nextSample s).rqm with
    | true =>
      obtain rfl := Host.Outcome.next.inj ((step_of_hold sr rqm).symm.trans e)
      simp [applyHold]
    | false => exact slot_latches ((step_of_undisturbed (undisturbed_iff.2 ⟨sr, rqm, cut⟩)).symm.trans e)
  obtain ⟨trapFF, r75⟩ := kept
  exact ⟨fun set clear => trapFF (by simp [set, clear]), fun set clear => r75 (by simp [set, clear])⟩

end Sys2Proof.Machine
end

section
/-! SUPPORT. Bytes read and written by the kind of the address, and what a fetch answers where the bytes at PC stand in
plain memory (R27, R64, R65, R73, R311). -/

namespace Sys2Proof.Machine

variable {s t u : State} {i : Instr}

/-! ## One byte, by the kind of its address -/

/-- The hold before the transfer draws no free value, so an absent address answers the one next at the start. -/
theorem memRead_absent {a : Word} (h : s.kindAt a = .absent) :
    (memRead s a).1 = Config.freeByte s.env.fresh := by
  simp [memRead, transferIn, h, drawByte]

/-- A device answers the script's next byte, and the read is recorded after the hold before it. -/
theorem memRead_device {a : Word} {b : Byte} {rest : List Byte} (h : s.kindAt a = .device)
    (script : s.env.busIn = b :: rest) :
    (memRead s a).1 = b ∧ (memRead s a).2.env.busIn = rest ∧
      (memRead s a).2.env.trace = .devRead a b :: s.atCycle.env.trace := by
  have answer := busAnswer_of_busIn_cons ((atCycle_env_busIn s).trans script)
  simp [memRead, transferIn, h, answer]

theorem atCycle_quiet (h : s.params.dmaPresent = false ∨ s.env.holds = []) : s.atCycle = s :=
  h.elim (atCycle_absent s) (atCycle_nil s)

/-- Settles O25: each kind of address has its own rule, and the bytes beside it stay. -/
theorem accessesFollowTheMemoryMap : Obligations.AccessesFollowTheMemoryMap := by
  refine fun s a v => ⟨fun plain => ⟨memRead_plain plain, fun quiet => ?_⟩, memRead_absent,
    fun device b rest => memRead_device device, fun b d => ?_, stored_memWrite a v,
    fun b n d => peek_memWrite_ne v n d⟩
  · rw [memRead_plain plain, atCycle_quiet quiet]
  · exact (storesOnly_memRead a).peek_of_notMem List.not_mem_nil d

/-! ## Fetching from plain memory -/

/-- A byte of code that stands in plain memory and is not written meanwhile is fetched as memory holds it. -/
theorem fetchedByte_plain {n : Nat} (plain : s.plain (s.pc + BitVec.ofNat 16 n))
    (d : s.pc + BitVec.ofNat 16 n ∉ s.dmaAddrs) : fetchedByte s n = s.code n := by
  have before : StoresOnly s (fetchBytes n s) _ := (busRun_fetchBytes n s).memory.stores
  have reads : (((List.range n).map fun k => Access.read (s.pc + BitVec.ofNat 16 k)).filterMap
      Access.stored) = [] := by
    rw [List.filterMap_map]
    simp [Access.stored]
  rw [reads] at before
  have fetched : fetchedByte s n = (memRead (fetchBytes n s) (s.pc + BitVec.ofNat 16 n)).1 := by
    rw [fetchedByte, fetch8, fetchBytes_pc]
  rw [fetched, memRead_plain (by rwa [before.kindAt]), peek_atCycle (before.notMem_dmaAddrs d),
    before.peek_of_notMem List.not_mem_nil d, State.code]

theorem fetch8_quiet (quiet : s.params.dmaPresent = false ∨ s.env.holds = []) (plain : s.plain s.pc) :
    (fetch8 s).2 = s.setPc (s.pc + 1) := by
  rw [fetch8, memRead_plain plain, atCycle_quiet quiet]

/-- Where no hold can fall, a fetch of plain bytes moves PC and changes nothing else. -/
theorem fetchBytes_quiet {n : Nat} (quiet : s.params.dmaPresent = false ∨ s.env.holds = [])
    (plain : ∀ k, k < n → s.plain (s.pc + BitVec.ofNat 16 k)) :
    fetchBytes n s = s.setPc (s.pc + BitVec.ofNat 16 n) := by
  induction n with
  | zero => rw [BitVec.add_zero]; rfl
  | succ n ih =>
    have next := fetch8_quiet (s := s.setPc (s.pc + BitVec.ofNat 16 n)) quiet (plain n n.lt_succ_self)
    rw [fetchBytes, ih fun k h => plain k (Nat.lt_succ_of_lt h), next, setPc_pc, BitVec.add_assoc,
      BitVec.ofNat_add]
    rfl

/-- Three bytes decode by the length of the first one. -/
theorem decode_three {b1 b2 b3 : Byte} {rest : List Byte} (d : decode [b1, b2, b3] = .ok (i, rest)) :
    i = decodeBytes b1 (if lengthOf b1 = 1 then 0 else b2) (if lengthOf b1 = 3 then b3 else 0) := by
  rcases lengthOf_cases b1 with len | len | len <;>
    simp only [decode, len, Except.ok.injEq, Prod.mk.injEq] at d <;> simp [len, d.1.symm]

/-- Where the bytes fetched are those of the instruction i, the fetch answers i. -/
theorem fetchInstr_of_code {rest : List Byte} (d : decode [s.code 0, s.code 1, s.code 2] = .ok (i, rest))
    (fetched : ∀ k, k < lengthOf (s.code 0) → fetchedByte s k = s.code k) :
    fetchInstr s = (i, fetchBytes (lengthOf (s.code 0)) s) := by
  rw [decode_three d]
  have first : fetchedByte s 0 = s.code 0 :=
    fetched 0 (by rcases lengthOf_cases (s.code 0) with len | len | len <;> omega)
  rcases fetchInstr_cases s with ⟨len, e⟩ | ⟨len, e⟩ | ⟨len, e⟩ <;> rw [e, first] <;> rw [first] at len
  · simp [len]
  · simp [len, fetched 1 (by omega)]
  · simp [len, fetched 1 (by omega), fetched 2 (by omega)]

/-- Settles O5: nothing stands before the instruction in such a slot, and its bytes are those of memory. -/
theorem stepRunsDecodedInstruction : Obligations.StepRunsDecodedInstruction := by
  refine fun s runs => ⟨step_of_runsProgram runs, fun i rest d bytes => ?_⟩
  have ran : step s = exec (fetchInstr s.sampled.clearEiDelay).1 (fetchInstr s.sampled.clearEiDelay).2 :=
    step_of_runsProgram runs
  have fetch : fetchInstr s.sampled.clearEiDelay =
      (i, fetchBytes (lengthOf (s.code 0)) s.sampled.clearEiDelay) :=
    fetchInstr_of_code (s := s.sampled.clearEiDelay) d fun k h =>
      let ⟨plain, d⟩ := bytes k h
      fetchedByte_plain plain d
  rw [ran, fetch]
  refine ⟨rfl, fetchBytes_pc _ _, fun quiet => ?_⟩
  rw [fetchBytes_quiet (s := s.sampled.clearEiDelay) quiet fun k h => (bytes k h).1]
  rfl

end Sys2Proof.Machine
end

section
/-! SUPPORT. Reset and hold (70_reset_and_hazards.md section 1, 60_exceptions.md section 5): what a reset inside a slot
tears, and what a hold between slots and between two transfers leaves and writes (R69, R340, R350, R351). -/

namespace Sys2Proof.Machine

variable {s t u : State}

/-! ## Reset -/

/-- Settles O13: a reset at the sampling point is `applyReset` of the sampled state. -/
theorem resetInputActsFirst : Obligations.ResetInputActsFirst := fun _ sr =>
  ⟨_, step_of_reset sr, rfl, rfl, rfl, rfl, rfl, rfl, rfl, rfl, rfl, rfl, rfl, rfl, rfl, rfl⟩

theorem tearByte_env_trace (a : Word) : (tearByte s a).env.trace = s.env.trace := by
  rcases tearByte_cases (s := s) a with ⟨-, e⟩ | ⟨-, e⟩ <;> rw [e]
  rfl

theorem foldl_tearByte_env_trace (as : List Word) :
    (as.foldl tearByte s).env.trace = s.env.trace := by
  induction as generalizing s with
  | nil => rfl
  | cons a as ih => exact ih.trans (tearByte_env_trace a)

/-- Each torn ram byte holds a free value drawn while tearing (R351). -/
theorem peek_foldl_tearByte_mem {a : Word} {as : List Word} (m : a ∈ as) (ram : s.kindAt a = .ram) :
    ∃ k, k < (as.foldl tearByte s).env.fresh ∧
      (as.foldl tearByte s).peek a = Config.freeByte k := by
  induction as using List.reverseRecOn with
  | nil => exact absurd m List.not_mem_nil
  | append_singleton as b ih =>
    rw [List.foldl_append, List.foldl_cons, List.foldl_nil]
    have kind (c : Word) : (as.foldl tearByte s).kindAt c = s.kindAt c :=
      kindAt_of_params_eq (foldl_tearByte_params as) c
    rcases tearByte_cases (s := as.foldl tearByte s) b with ⟨-, e⟩ | ⟨notRam, e⟩ <;> rw [e]
    · by_cases here : a = b
      · subst here
        exact ⟨_, Nat.lt_succ_self _, peek_poke_same a _⟩
      · obtain ⟨k, lt, free⟩ := ih ((List.mem_append.1 m).resolve_right (by simpa using here))
        exact ⟨k, Nat.lt_succ_of_lt lt, (peek_poke_ne _ here).trans free⟩
    · refine ih ((List.mem_append.1 m).resolve_right fun last => notRam ?_)
      rw [← List.mem_singleton.1 last, kind, ram]

/-- The events of a slot that a cut lets happen. -/
theorem cutTrace_eq (n : Nat) (s t : State) :
    ∃ evs, cutTrace n s t = evs ++ s.env.trace ∧ evs.length ≤ n :=
  ⟨_, rfl, by rw [List.length_drop]; omega⟩

/-- Settles O14: after the slot's bytes are torn and its trace is cut, the reset is the one of every slot. -/
theorem resetInsideASlotTearsItsStores : Obligations.ResetInsideASlotTearsItsStores := by
  intro s u n sr rqm cut e
  have memory : MemRun s u (slotStores s.sampled) :=
    (sameBus_sampled s).memRun.trans (slot_memRun e)
  refine ⟨_, (step_of_cut sr rqm cut).trans (slotCut_of_next n e), rfl, rfl, rfl, rfl,
    fun a m ram => ?torn, fun a m d => ?kept, (memory.fixedKept.trans (fixedKept_cutShort _ u)).2,
    ?trace, fun some => ?entry, slotStores_of_halted, slotStores_of_running⟩
  case torn =>
    have ram' : u.kindAt a = .ram := (memory.stores.kindAt a).trans ram
    obtain ⟨k, lt, free⟩ := peek_foldl_tearByte_mem (s := { u with env := { u.env with
      trace := cutTrace n s.sampled u } }) m ram'
    exact ⟨k, lt.trans (Nat.lt_add_of_pos_right (by decide : 0 < 15)), free⟩
  case kept =>
    have untorn := peek_foldl_tearByte (s := { u with env := { u.env with
      trace := cutTrace n s.sampled u } }) (slotStores s.sampled) (.inl m)
    exact untorn.trans (memory.stores.peek_of_notMem m d)
  case trace =>
    obtain ⟨evs, events, len⟩ := cutTrace_eq n s.sampled u
    exact ⟨evs, congrArg (Event.resetOut :: ·) ((foldl_tearByte_env_trace _).trans events), len⟩
  case entry =>
    obtain ⟨w, won⟩ := Option.ne_none_iff_exists'.1 some
    exact slotStores_of_winner won

/-! ## Hold -/

/-- Of the bytes a hold writes to a ram address, the last one stands. -/
theorem peek_holdBus_last {a : Word} {v : Byte} (earlier : List DmaWrite)
    (present : s.params.dmaPresent = true) (ram : s.kindAt a = .ram) :
    (holdBus (earlier ++ [(a, v)]) s).peek a = v := by
  have kind : (earlier.foldl dmaWrite s).kindAt a = .ram :=
    (kindAt_of_params_eq (foldl_dmaWrite (·.params) dmaWrite_params earlier s) a).trans ram
  have last : dmaWrite (earlier.foldl dmaWrite s) (a, v) = (earlier.foldl dmaWrite s).poke a v := by
    simp [dmaWrite, kind]
  rw [holdBus, if_pos present, List.foldl_append, List.foldl_cons, List.foldl_nil, last]
  exact peek_poke_same a v

theorem notMem_map_fst {a : Word} {ws : List DmaWrite} (h : ∀ v, (a, v) ∉ ws) :
    a ∉ ws.map Prod.fst := by
  simpa using h

/-- Settles O15: a hold writes memory and its event, and sampling has set the latches before it. -/
theorem holdChangesNoProcessorState : Obligations.HoldChangesNoProcessorState := by
  refine fun s sr rqm => ⟨_, step_of_hold sr rqm, holdBus_regs _ _, holdBus_flags _ _, holdBus_sp _ _,
    holdBus_pc _ _, holdBus_intr _ _, holdBus_halted _ _, holdBus_tfd _ _, holdBus_env_trace _ _,
    fun a kept => ?kept, fun earlier a v present writes ram => ?last⟩
  case kept =>
    refine peek_holdBus (s := s.sampled) _ ?_
    rcases kept with absent | unwritten | notRam
    · exact .inl fun present => nomatch absent.symm.trans present
    · exact .inl fun _ => notMem_map_fst unwritten
    · exact .inr notRam
  case last =>
    rw [applyHold, writes]
    exact peek_holdBus_last (s := s.sampled) earlier present ram

theorem atCycle_of_none {rest : List (Option (List DmaWrite))} (present : s.params.dmaPresent = true)
    (holds : s.env.holds = none :: rest) :
    s.atCycle = { s with env := { s.env with holds := rest } } := by
  simp [State.atCycle, present, holds]

theorem atCycle_of_some {ws : List DmaWrite} {rest : List (Option (List DmaWrite))}
    (present : s.params.dmaPresent = true) (holds : s.env.holds = some ws :: rest) :
    s.atCycle = holdBus ws { s with env := { s.env with holds := rest } } := by
  simp [State.atCycle, present, holds]

/-- One byte written in a hold between two transfers stands at the second one. -/
theorem peek_atCycle_of_single {a : Word} {w : Byte} {rest : List (Option (List DmaWrite))}
    (present : s.params.dmaPresent = true) (ram : s.kindAt a = .ram)
    (holds : s.env.holds = some [(a, w)] :: rest) : s.atCycle.peek a = w := by
  rw [atCycle_of_some present holds]
  exact peek_holdBus_last [] present ram

/-- A first transfer without a hold before it leaves the rest of the script to the second one. -/
theorem memWrite_env_holds {rest : List (Option (List DmaWrite))} (a : Word) (v : Byte)
    (present : s.params.dmaPresent = true) (holds : s.env.holds = none :: rest) :
    (memWrite s a v).env.holds = rest := by
  simp [memWrite, atCycle_holds, present, holds]

/-- The second byte of a two-byte read is taken after the hold between the two (R69). -/
theorem memRead16_torn {a : Word} {w : Byte} {rest : List (Option (List DmaWrite))}
    (present : s.params.dmaPresent = true) (low : s.kindAt a = .ram) (high : s.kindAt (a + 1) = .ram)
    (holds : s.env.holds = none :: some [(a + 1, w)] :: rest) :
    (memRead16 s a).1 = mkWord w (s.peek a) := by
  have second : s.atCycle.atCycle.peek (a + 1) = w :=
    peek_atCycle_of_single (s := s.atCycle) (by simpa using present) (by simpa using high)
      (by rw [atCycle_of_none present holds])
  rw [memRead16_plain (.inl low) (.inl high), second, atCycle_of_none present holds]
  rfl

/-- The first byte of a two-byte write is overwritten in the hold before the second (R69). -/
theorem memWrite16_torn {a v : Word} {w : Byte} {rest : List (Option (List DmaWrite))}
    (present : s.params.dmaPresent = true) (low : s.kindAt a = .ram) (high : s.kindAt (a + 1) = .ram)
    (holds : s.env.holds = none :: some [(a, w)] :: rest) :
    (memWrite16 s a v).peek a = w ∧ (memWrite16 s a v).peek (a + 1) = hiByte v := by
  refine ⟨?_, peek_memWrite16_high v high⟩
  rw [memWrite16, memWrite_ram _ (by simpa using high), peek_poke_ne _ (word_succ_ne a).symm]
  exact peek_atCycle_of_single (by simpa using present) (by simpa using low)
    (memWrite_env_holds a _ present holds)

/-- INR M stores what it read plus one over what the other master wrote in between (R69, R256). -/
theorem inrM_loses_update {ws : List DmaWrite} {rest : List (Option (List DmaWrite))}
    (present : s.params.dmaPresent = true) (ram : s.kindAt s.hl = .ram)
    (holds : s.env.holds = none :: some ws :: rest) :
    ∃ t, exec .inrM s = .next t ∧ t.peek s.hl = s.peek s.hl + 1 := by
  have read : (memRead s s.hl).1 = s.peek s.hl := by
    rw [memRead_plain (.inl ram), atCycle_of_none present holds]
    rfl
  refine ⟨_, rfl, ?_⟩
  rw [peek_of_mem_eq (arithFlags_mem _ _ _), peek_memWrite_ram _ (by simpa using ram), add8_res, read]

/-- Settles O16: a boundary takes the next entry of the script, and the transfers on its two sides see it. -/
theorem holdFallsBetweenTransfers : Obligations.HoldFallsBetweenTransfers := by
  refine fun s => ⟨atCycle_quiet, fun present rest => ⟨atCycle_of_none present, fun ws holds => ?hold,
    fun a v w low high => ⟨memRead16_torn present low high, memWrite16_torn present low high⟩,
    fun w ram holds => inrM_loses_update present ram holds⟩⟩
  case hold =>
    refine ⟨by simp, by simp, by simp, by simp, by simp, by simp, by simp, ?_⟩
    rw [atCycle_of_some present holds]
    refine ⟨by simp, by simp, fun a kept => peek_holdBus _ ?_, fun earlier a v writes ram => ?_⟩
    · exact kept.imp_left fun unwritten _ => notMem_map_fst unwritten
    · rw [writes]
      exact peek_holdBus_last earlier present ram

end Sys2Proof.Machine
end
